-- ==== Sys2Proof/Word.lean ====
section
/-! DEFINITION. The machine's words: bytes, 16-bit words, 12-bit addresses, register indexes, keypad snapshots
(00_scope.md R6, R9; every value is unsigned). -/

namespace Sys2Proof

/-- A byte: a general register, a timer, a byte of memory (R6). -/
abbrev Byte := BitVec 8

/-- A 16-bit word: an opcode, `PC`, `I`, a stack entry (R6). -/
abbrev Word := BitVec 16

/-- The 12-bit address field `nnn` of an opcode (R91). -/
abbrev Addr12 := BitVec 12

/-- The index of a general register, `V[0x0]` to `V[0xF]` (R21). -/
abbrev Reg := Fin 16

/-- A keypad snapshot: bit `k` is 1 when key `k` is held (R40; "a 16-bit input snapshot per cycle", R251). -/
abbrev Keys := BitVec 16

/-- `VF`, the register that doubles as the flag (R22). -/
abbrev regF : Reg := 15

end Sys2Proof
end

