-- ==== Sys2Proof/Decode.lean ====
section
/-! DEFINITION. The decoder and the encoder, both written from 30_encoding.md: the field positions of R91, the opcode map
of R96 row by row, the matching of R94 on each row's whole pattern. Every bit pattern is [from general knowledge] in the
spec (decision D1), log 14. -/

namespace Sys2Proof

/-! ### Fields of an opcode (R91) -/

/-- `x = op[11:8]`. -/
def fieldX (op : Word) : Reg := (op.extractLsb' 8 4).toFin

/-- `y = op[7:4]`. -/
def fieldY (op : Word) : Reg := (op.extractLsb' 4 4).toFin

/-- `n = op[3:0]`, a count. -/
def fieldN (op : Word) : Nat := (op.extractLsb' 0 4).toNat

/-- `nn = op[7:0]`. -/
def fieldNN (op : Word) : Byte := op.extractLsb' 0 8

/-- `nnn = op[11:0]`. -/
def fieldNNN (op : Word) : Addr12 := op.extractLsb' 0 12

/-! ### The opcode map (R96) -/

/-- One row of the opcode map: the bits `mask` selects must equal `pattern` (the table's `match`); `build` reads the fields. -/
structure OpcodeRow where
  pattern : Word
  mask : Word
  build : Word → Instr

/-- The word `op` belongs to the row: `(op & mask) = match` (R94). -/
def OpcodeRow.hits (r : OpcodeRow) (op : Word) : Bool := op &&& r.mask == r.pattern

/-- Families 0x0 to 0x7. -/
def opcodeRowsLow : List OpcodeRow :=
  [ ⟨0x00E0, 0xFFFF, fun _ => .cls⟩,
    ⟨0x00EE, 0xFFFF, fun _ => .ret⟩,
    ⟨0x1000, 0xF000, fun op => .jp (fieldNNN op)⟩,
    ⟨0x2000, 0xF000, fun op => .call (fieldNNN op)⟩,
    ⟨0x3000, 0xF000, fun op => .seImm (fieldX op) (fieldNN op)⟩,
    ⟨0x4000, 0xF000, fun op => .sneImm (fieldX op) (fieldNN op)⟩,
    ⟨0x5000, 0xF00F, fun op => .seReg (fieldX op) (fieldY op)⟩,
    ⟨0x6000, 0xF000, fun op => .ldImm (fieldX op) (fieldNN op)⟩,
    ⟨0x7000, 0xF000, fun op => .addImm (fieldX op) (fieldNN op)⟩ ]

/-- Family 0x8. -/
def opcodeRowsAlu : List OpcodeRow :=
  [ ⟨0x8000, 0xF00F, fun op => .ldReg (fieldX op) (fieldY op)⟩,
    ⟨0x8001, 0xF00F, fun op => .orReg (fieldX op) (fieldY op)⟩,
    ⟨0x8002, 0xF00F, fun op => .andReg (fieldX op) (fieldY op)⟩,
    ⟨0x8003, 0xF00F, fun op => .xorReg (fieldX op) (fieldY op)⟩,
    ⟨0x8004, 0xF00F, fun op => .addReg (fieldX op) (fieldY op)⟩,
    ⟨0x8005, 0xF00F, fun op => .subReg (fieldX op) (fieldY op)⟩,
    ⟨0x8006, 0xF00F, fun op => .shr (fieldX op) (fieldY op)⟩,
    ⟨0x8007, 0xF00F, fun op => .subnReg (fieldX op) (fieldY op)⟩,
    ⟨0x800E, 0xF00F, fun op => .shl (fieldX op) (fieldY op)⟩ ]

/-- Families 0x9 to 0xE. -/
def opcodeRowsHigh : List OpcodeRow :=
  [ ⟨0x9000, 0xF00F, fun op => .sneReg (fieldX op) (fieldY op)⟩,
    ⟨0xA000, 0xF000, fun op => .ldI (fieldNNN op)⟩,
    ⟨0xB000, 0xF000, fun op => .jpV0 (fieldNNN op)⟩,
    ⟨0xC000, 0xF000, fun op => .rnd (fieldX op) (fieldNN op)⟩,
    ⟨0xD000, 0xF000, fun op => .drw (fieldX op) (fieldY op) (fieldN op)⟩,
    ⟨0xE09E, 0xF0FF, fun op => .skp (fieldX op)⟩,
    ⟨0xE0A1, 0xF0FF, fun op => .sknp (fieldX op)⟩ ]

/-- Family 0xF. -/
def opcodeRowsF : List OpcodeRow :=
  [ ⟨0xF007, 0xF0FF, fun op => .ldVxDt (fieldX op)⟩,
    ⟨0xF00A, 0xF0FF, fun op => .ldVxK (fieldX op)⟩,
    ⟨0xF015, 0xF0FF, fun op => .ldDtVx (fieldX op)⟩,
    ⟨0xF018, 0xF0FF, fun op => .ldStVx (fieldX op)⟩,
    ⟨0xF01E, 0xF0FF, fun op => .addI (fieldX op)⟩,
    ⟨0xF029, 0xF0FF, fun op => .ldF (fieldX op)⟩,
    ⟨0xF033, 0xF0FF, fun op => .ldB (fieldX op)⟩,
    ⟨0xF055, 0xF0FF, fun op => .storeRegs (fieldX op)⟩,
    ⟨0xF065, 0xF0FF, fun op => .loadRegs (fieldX op)⟩ ]

/-- The 34 rows of R96, in the table's order. -/
def opcodeTable : List OpcodeRow := opcodeRowsLow ++ opcodeRowsAlu ++ opcodeRowsHigh ++ opcodeRowsF

/-! ### The decoder (R94, R95, R100) -/

/-- What the decoder answers: an instruction, or UNKNOWN with the whole opcode (R94, R123). -/
inductive Decoded where
  | instr (i : Instr)
  | unknown (op : Word)
  deriving DecidableEq, Repr

/-- The decoder: a total function of the 16 bits (R95). It finds the row that matches (the rows are disjoint); where none
does the word is rejected by name, as UNKNOWN (R100). -/
def decode (op : Word) : Decoded :=
  match opcodeTable.find? (fun r => r.hits op) with
  | some r => .instr (r.build op)
  | none => .unknown op

/-- The opcode that two bytes of memory make: the byte at the lower address is the high one (20_memory.md R61, D4). -/
def opcodeOfBytes (hi lo : Byte) : Word := hi ++ lo

/-- The two bytes of an opcode as memory holds them, the one at the lower address first (R61). -/
def bytesOfOpcode (op : Word) : List Byte := [op.extractLsb' 8 8, op.extractLsb' 0 8]

/-- The decoder on bytes as they lie in memory; two bytes make an opcode, fewer make none. -/
def decodeBytes : List Byte → Option Decoded
  | hi :: lo :: _ => some (decode (opcodeOfBytes hi lo))
  | [_] | [] => none

/-- The instruction read from an instruction whose bits are `w`, numbered as opcode_table.json numbers them; bits from
`nbits` up are 0. `none` where the decoder answers UNKNOWN. -/
def decodeTableWord (nbits w : Nat) : Option Instr :=
  match decodeBytes (bytesOfOpcode (BitVec.ofNat 16 (w % 2 ^ nbits))) with
  | some (.instr i) => some i
  | some (.unknown _) | none => none

/-! ### The encoder (R92, R96) -/

/-- Format `NNN`. -/
def encodeNNN (base : Word) (nnn : Addr12) : Word := base ||| nnn.setWidth 16

/-- Format `XNN`. -/
def encodeXNN (base : Word) (x : Reg) (nn : Byte) : Word :=
  base ||| (BitVec.ofNat 16 x.val <<< 8) ||| nn.setWidth 16

/-- Format `XY`. -/
def encodeXY (base : Word) (x y : Reg) : Word :=
  base ||| (BitVec.ofNat 16 x.val <<< 8) ||| (BitVec.ofNat 16 y.val <<< 4)

/-- Format `XYN`. -/
def encodeXYN (base : Word) (x y : Reg) (n : Nat) : Word :=
  base ||| (BitVec.ofNat 16 x.val <<< 8) ||| (BitVec.ofNat 16 y.val <<< 4) ||| BitVec.ofNat 16 n

/-- Format `X`. -/
def encodeX (base : Word) (x : Reg) : Word := base ||| (BitVec.ofNat 16 x.val <<< 8)

/-- The opcode of an instruction, from each rule's own "Encoding" line (R141 to R213) and the formats of R92. -/
def encode : Instr → Word
  | .cls => 0x00E0
  | .ret => 0x00EE
  | .jp nnn => encodeNNN 0x1000 nnn
  | .call nnn => encodeNNN 0x2000 nnn
  | .seImm x nn => encodeXNN 0x3000 x nn
  | .sneImm x nn => encodeXNN 0x4000 x nn
  | .seReg x y => encodeXY 0x5000 x y
  | .ldImm x nn => encodeXNN 0x6000 x nn
  | .addImm x nn => encodeXNN 0x7000 x nn
  | .ldReg x y => encodeXY 0x8000 x y
  | .orReg x y => encodeXY 0x8001 x y
  | .andReg x y => encodeXY 0x8002 x y
  | .xorReg x y => encodeXY 0x8003 x y
  | .addReg x y => encodeXY 0x8004 x y
  | .subReg x y => encodeXY 0x8005 x y
  | .shr x y => encodeXY 0x8006 x y
  | .subnReg x y => encodeXY 0x8007 x y
  | .shl x y => encodeXY 0x800E x y
  | .sneReg x y => encodeXY 0x9000 x y
  | .ldI nnn => encodeNNN 0xA000 nnn
  | .jpV0 nnn => encodeNNN 0xB000 nnn
  | .rnd x nn => encodeXNN 0xC000 x nn
  | .drw x y n => encodeXYN 0xD000 x y n
  | .skp x => encodeX 0xE09E x
  | .sknp x => encodeX 0xE0A1 x
  | .ldVxDt x => encodeX 0xF007 x
  | .ldVxK x => encodeX 0xF00A x
  | .ldDtVx x => encodeX 0xF015 x
  | .ldStVx x => encodeX 0xF018 x
  | .addI x => encodeX 0xF01E x
  | .ldF x => encodeX 0xF029 x
  | .ldB x => encodeX 0xF033 x
  | .storeRegs x => encodeX 0xF055 x
  | .loadRegs x => encodeX 0xF065 x

end Sys2Proof
end

