-- ==== Sys2Proof/Config.lean ====
section
/-! DEFINITION. The fixed sizes of the hardware (00_scope.md R6), the six events of its interface (10_state.md R38), and
the one free value of the model: which event the outside world delivers, with which inputs. -/

namespace Sys2Proof

/-- An event of the block's interface; each is one atomic transition and no two overlap (R38, R39). -/
inductive Event where
  /-- `Reset` (R270). -/
  | reset
  /-- `Load(bytes)` (R278). -/
  | load (bytes : List Byte)
  /-- `Cycle(keys, rnd)`: one tick of the instruction clock with its two free inputs (R120, R8). -/
  | cycle (keys : Keys) (rnd : Byte)
  /-- `TimerTick` (R245). -/
  | timerTick
  /-- `FbRead` (R282). -/
  | fbRead
  /-- The status read of `SOUND`, `HALT` and `ERR` (R38). -/
  | statusRead
  deriving DecidableEq, Repr, Inhabited

/-- MEM_SIZE, bytes of memory, addresses 0x000 to 0xFFF (R6). -/
abbrev Config.memSize : Nat := 0x1000

/-- PROG_BASE, the load address and the reset value of `PC` (R6). -/
abbrev Config.progBase : Nat := 0x200

/-- LOAD_MAX, the largest loadable image (R6, R279; decision D30), log 14. -/
abbrev Config.loadMax : Nat := 3584

/-- STACK_DEPTH (R6). -/
abbrev Config.stackDepth : Nat := 16

/-- FONT_BASE (R6). -/
abbrev Config.fontBase : Nat := 0x000

/-- GLYPH_BYTES (R6). -/
abbrev Config.glyphBytes : Nat := 5

/-- TIMER_HZ (R6, R7; C6). Read by no rule (R7), and by nothing of the model: it keeps no real time (log 12). -/
abbrev Config.timerHz : Nat := 60

/-- INSTR_HZ, the instruction clock rate: open (R7, D33), read by no rule. DESIGN CHOICE (safe): a constant without a
value, log 12. -/
opaque Config.instrHz : Nat

/-- The FREE VALUE of the model: the event the outside world delivers as the `n`-th one when State's own list of events is
empty, its keypad snapshot, random byte or program image included. The spec leaves all of it open (R8, R191, R248, R281,
R284; U1 to U4). DESIGN CHOICE (safe): it has no body, so no proof can know which event comes, log 1. -/
opaque Config.hostEvent : Nat → Event

end Sys2Proof
end

