-- ==== Sys2Proof/Machine/State.lean ====
section
/-! DEFINITION. The state of the block (10_state.md R20, R48), its errors (60_exceptions.md R230), the results of its
events (R44), the ways a step of the model stops, and the state after `Reset` (R48, R270). -/

namespace Sys2Proof.Machine

/-! ### Errors (R230) -/

/-- The error kinds of R230. -/
inductive ErrKind where
  | none
  | unknownOpcode
  | stackOverflow
  | stackUnderflow
  | outOfBounds
  | programTooLarge
  deriving DecidableEq, Repr

/-- The sub-causes of OutOfBounds (R230); `none` for the other kinds. -/
inductive SubCause where
  | none
  | fetch
  | data
  | index
  | key
  deriving DecidableEq, Repr

/-- The record `(kind, sub, info, addr)` of R37: `addr` is the `PC` of the instruction that raised it. -/
structure ErrRec where
  kind : ErrKind
  sub : SubCause
  info : Word
  addr : Word
  deriving DecidableEq, Repr

/-- `(0, 0, 0, 0)`, the value of `ERR` when there is no error (R48). -/
def ErrRec.clear : ErrRec := ⟨.none, .none, 0, 0⟩

/-! ### The framebuffer and memory as data -/

/-- `FB`: 32 rows, top row first, of 64 pixels; bit `x` of a row is the pixel of column `x` (R33, R34), log 9. -/
abbrev Screen := Vector (BitVec 64) 32

/-- `MEM`: the cells that differ from the reset contents, by rising address (R31), log 6. -/
abbrev Memory := List Host.Cell

/-! ### Results of events -/

/-- What an event answers to the host (R38, R44, R278, R282). -/
inductive Result where
  /-- The event has no result: `Reset`, `TimerTick`. -/
  | nothing
  /-- `Ok`: the instruction completed (R127). -/
  | ok
  /-- `Diagnostic(UnknownOpcode, op, addr)`, non-fatal, latched nowhere else (R44, R232). -/
  | diagnostic (r : ErrRec)
  /-- `Fatal(kind, sub, info, addr)`, latched in `HALT` and `ERR` too (R44, R236). -/
  | fatal (r : ErrRec)
  /-- The image was accepted (R278). -/
  | loadAccepted
  /-- `ProgramTooLarge`: the image was rejected (R238, R279). -/
  | programTooLarge
  /-- A framebuffer snapshot and the old `DRAW` (R43, R282). -/
  | snapshot (fb : Screen) (draw : Bool)
  /-- `SOUND`, `HALT` and `ERR` (R38, R42). -/
  | status (sound halt : Bool) (err : ErrRec)
  deriving DecidableEq, Repr

/-! ### The state -/

/-- The state of the block (R20), and after it the model's own fields, which carry the inputs and outputs of the events. -/
structure State where
  /-- `V[0..15]` (R21). -/
  v : Vector Byte 16
  /-- `I` (R25). -/
  i : Word
  /-- `PC` (R23). -/
  pc : Word
  /-- `SP`, the number of return addresses held, 0 to 16 (R27), log 8. -/
  sp : Nat
  /-- `STACK[0..15]` (R28). -/
  stack : Vector Word 16
  /-- `DT` (R29). -/
  dt : Byte
  /-- `ST` (R30). -/
  st : Byte
  /-- `MEM` (R31). -/
  mem : Memory
  /-- `FB` (R33). -/
  fb : Screen
  /-- `DRAW` (R35). -/
  draw : Bool
  /-- `KEY_PREV[0..15]` (R36). -/
  keyPrev : Keys
  /-- `HALT` (R37). -/
  halt : Bool
  /-- `ERR` (R37). -/
  err : ErrRec
  /-- Model's own: the keypad snapshot given with the current cycle (R40). DESIGN CHOICE, log 2. -/
  keys : Keys
  /-- Model's own: the random byte given with the current cycle (R41). DESIGN CHOICE, log 2. -/
  rnd : Byte
  /-- Model's own: what the event just taken answered (R44). DESIGN CHOICE, log 3. -/
  result : Result
  /-- Model's own: no cycle has been taken since the last `Reset`, so a `Load` has a meaning (R280). DESIGN CHOICE, log 5. -/
  loadable : Bool
  /-- Model's own: the events the outside world delivers next, first one first (R129, R248). DESIGN CHOICE, log 1. -/
  script : List Event
  /-- Model's own: the number of events so far, the argument of `Config.hostEvent`. DESIGN CHOICE, log 1. -/
  clock : Nat
  deriving DecidableEq, Repr

/-! ### How a step of the model stops -/

/-- Why the machine has no next state. -/
inductive Fault where
  /-- Raised by a `Cycle` asked of a unit whose `HALT` is 1, and by nothing else: "When HALT = 1 the instruction unit has no
  step", and the tick's result is the latched error again (40_cycle.md R121). Safe: the state is as it was, and only the
  spec's own stop is reported, log 4. -/
  | halted (err : ErrRec)
  deriving DecidableEq, Repr

/-- Why the model gives no meaning. -/
inductive Refusal where
  /-- Raised by an arm of `exec` whose instruction has no meaning yet; no arm raises it. Safe. -/
  | notModelled (mnemonic : String)
  /-- Raised by a `Load` after the first cycle of a run or while halted: "a model should give such a launch no meaning
  (refuse it)" (70_reset_and_hazards.md R280; U20). Safe, log 5. -/
  | loadAfterFirstCycle
  deriving DecidableEq, Repr

/-- The three outcomes of an instruction or a step of this machine. -/
abbrev Answer := Host.Outcome State Fault Refusal

/-- The state right after `Reset` (R48, R270), every element at the value the spec states; memory lists nothing, since its
unlisted bytes read as the reset contents. The model's own fields follow: no event is queued, no input is held (logs 1, 2, 3). -/
def State.reset : State where
  v := Vector.replicate 16 0
  i := 0
  pc := 0x200
  sp := 0
  stack := Vector.replicate 16 0
  dt := 0
  st := 0
  mem := []
  fb := Vector.replicate 32 0
  draw := true
  keyPrev := 0
  halt := false
  err := ErrRec.clear
  keys := 0
  rnd := 0
  result := .nothing
  loadable := true
  script := []
  clock := 0

end Sys2Proof.Machine
end

