-- ==== Sys2Proof/Machine/Memory.lean ====
section
/-! DEFINITION. `MEM` (10_state.md R31, R32; 20_memory.md R60 to R69): the font, what an unlisted address reads as, reading
and writing one byte, the checked primitives MemRead and MemWrite, and ranges of bytes. -/

namespace Sys2Proof.Machine

/-- The font, sixteen glyphs of five bytes (R32). Glyph 0 is the source's; the others are [from general knowledge] in the
spec (D17), log 14. -/
def font : List Byte :=
  [0xF0, 0x90, 0x90, 0x90, 0xF0] ++ [0x20, 0x60, 0x20, 0x20, 0x70] ++
  [0xF0, 0x10, 0xF0, 0x80, 0xF0] ++ [0xF0, 0x10, 0xF0, 0x10, 0xF0] ++
  [0x90, 0x90, 0xF0, 0x10, 0x10] ++ [0xF0, 0x80, 0xF0, 0x10, 0xF0] ++
  [0xF0, 0x80, 0xF0, 0x90, 0xF0] ++ [0xF0, 0x10, 0x20, 0x40, 0x40] ++
  [0xF0, 0x90, 0xF0, 0x90, 0xF0] ++ [0xF0, 0x90, 0xF0, 0x10, 0xF0] ++
  [0xF0, 0x90, 0xF0, 0x90, 0x90] ++ [0xE0, 0x90, 0xE0, 0x90, 0xE0] ++
  [0xF0, 0x80, 0x80, 0x80, 0xF0] ++ [0xE0, 0x90, 0x90, 0x90, 0xE0] ++
  [0xF0, 0x80, 0xF0, 0x80, 0xF0] ++ [0xF0, 0x80, 0xF0, 0x80, 0x80]

/-- What an address that memory does not list reads as: the reset contents, the font from 0x000 and 0x00 above it (R48,
R270), log 6. -/
def Memory.unlisted (a : Nat) : Byte := font.getD a 0

/-- The byte at an address inside `MEM`, from the list or as reset left it. -/
def Memory.read : Memory → Nat → Byte
  | [], a => Memory.unlisted a
  | (b, w) :: rest, a => if a = b then w else Memory.read rest a

/-- Memory with one byte changed. The list keeps its canonical form: a byte that reads as the unlisted one is not listed. -/
def Memory.write : Memory → Nat → Byte → Memory
  | [], a, v => if v = Memory.unlisted a then [] else [(a, v)]
  | (b, w) :: rest, a, v =>
    if a < b then
      if v = Memory.unlisted a then (b, w) :: rest else (a, v) :: (b, w) :: rest
    else if a = b then
      if v = Memory.unlisted a then rest else (a, v) :: rest
    else (b, w) :: Memory.write rest a v

/-- The canonical form: addresses inside `MEM` and strictly rising, and no cell equal to what its address reads as unlisted. -/
def Memory.wf : Memory → Bool
  | [] => true
  | (a, v) :: rest =>
    decide (a < Config.memSize) && (v != Memory.unlisted a) && rest.all (fun c => decide (a < c.1)) && Memory.wf rest

/-- `n` bytes from `a` upward, in ascending order (20_memory.md R64). -/
def Memory.readRange (m : Memory) (a n : Nat) : List Byte := (List.range n).map (fun k => m.read (a + k))

/-- Memory with the bytes stored from `a` upward, in ascending order (R64). -/
def Memory.writeRange (m : Memory) (a : Nat) : List Byte → Memory
  | [] => m
  | b :: bs => Memory.writeRange (m.write a b) (a + 1) bs

/-- The `n` addresses from `a` upward all exist; no address is touched when `n = 0` (R63; 46_draw.md R202). -/
def inMemory (a n : Nat) : Bool := n == 0 || decide (a + n ≤ Config.memSize)

/-- MemRead(addr, 1): `none` is the out-of-bounds error (R62). -/
def memRead (m : Memory) (a : Nat) : Option Byte := if a > 0xFFF then none else some (m.read a)

/-- MemWrite(addr, 1, v): `none` is the out-of-bounds error (R63). -/
def memWrite (m : Memory) (a : Nat) (v : Byte) : Option Memory := if a > 0xFFF then none else some (m.write a v)

/-- MemRead(addr, 2), the instruction fetch only: both bytes must exist, the lower address supplies the high byte (R61,
R122). -/
def memReadWord (m : Memory) (a : Nat) : Option Word :=
  match memRead m a, memRead m (a + 1) with
  | some hi, some lo => some (opcodeOfBytes hi lo)
  | _, _ => none

end Sys2Proof.Machine
end

