-- ==== Sys2Proof/Machine/Ops.lean ====
section
/-! DEFINITION. The shared operations of the instruction rules: registers, the program counter's policies (40_cycle.md
R124), the stack, the fatal error (60_exceptions.md R236) and the diagnostic (R232). There is no return from a fatal error
but `Reset` (R241), and no other exception, so no return operation stands here. -/

namespace Sys2Proof.Machine

/-! ### Error codes -/

/-- The code of an error kind (R230; D27: the numbers are labels). -/
def ErrKind.code : ErrKind → Nat
  | .none => 0
  | .unknownOpcode => 1
  | .stackOverflow => 2
  | .stackUnderflow => 3
  | .outOfBounds => 4
  | .programTooLarge => 5

/-- The number of a sub-cause (R230). -/
def SubCause.code : SubCause → Nat
  | .none => 0
  | .fetch => 1
  | .data => 2
  | .index => 3
  | .key => 4

/-! ### Registers and the program counter -/

/-- `V[r]`. -/
def State.getV (s : State) (r : Reg) : Byte := s.v[r]

/-- `V[r] <- b`. -/
def State.setV (s : State) (r : Reg) (b : Byte) : State := { s with v := s.v.set r b }

/-- The whole register file at once (FX65). -/
def State.setRegs (s : State) (v : Vector Byte 16) : State := { s with v := v }

/-- `I <- w`. -/
def State.setI (s : State) (w : Word) : State := { s with i := w }

/-- The `transfer` policy: `PC <- w` (R124). -/
def State.setPc (s : State) (w : Word) : State := { s with pc := w }

/-- The `step` policy: `PC <- PC + 2` (R124). -/
def State.advance (s : State) : State := s.setPc (s.pc + 2)

/-- The `skip` policy: `PC + 4` if the condition holds, else `PC + 2`; the skipped word is not looked at (R124, R102). -/
def State.skipIf (s : State) (c : Bool) : State := s.setPc (if c then s.pc + 4 else s.pc + 2)

/-- `DT <- b`. -/
def State.setDt (s : State) (b : Byte) : State := { s with dt := b }

/-- `ST <- b`. -/
def State.setSt (s : State) (b : Byte) : State := { s with st := b }

/-- `FB <- fb` and `DRAW <- 1` (10_state.md R35). -/
def State.setScreen (s : State) (fb : Screen) : State := { s with fb := fb, draw := true }

/-- The result first, the flag into `VF` last (43_arithmetic_flags.md R170). -/
def State.setVFlag (s : State) (x : Reg) (r : Byte) (f : Byte) : State := (s.setV x r).setV regF f

/-- The memory with bytes stored from address `a` upward. -/
def State.store (s : State) (a : Nat) (bytes : List Byte) : State := { s with mem := s.mem.writeRange a bytes }

/-! ### The stack (10_state.md R27, R28) -/

/-- `STACK[k]`; an index the stack does not have, which no reachable state uses (log 8), reads as 0. -/
def State.stackAt (s : State) (k : Nat) : Word := s.stack[k]?.getD 0

/-- `STACK[SP] <- w`, then `SP <- SP + 1`. -/
def State.push (s : State) (w : Word) : State := { s with stack := s.stack.setIfInBounds s.sp w, sp := s.sp + 1 }

/-- `SP <- SP - 1`, then `PC <- STACK[SP]`; the entry is not erased (R141). -/
def State.popPc (s : State) : State := { s with sp := s.sp - 1, pc := s.stackAt (s.sp - 1) }

/-! ### Errors -/

/-- `raise Fatal(kind, sub, info)`: HALT becomes 1, ERR records the error with the `PC` of the faulting instruction, the
cycle's result is the error, and nothing else changes (R236, R237). -/
def raiseFatal (kind : ErrKind) (sub : SubCause) (info : Word) (s : State) : State :=
  { s with halt := true, err := ⟨kind, sub, info, s.pc⟩, result := .fatal ⟨kind, sub, info, s.pc⟩ }

/-- `report Diagnostic(UnknownOpcode, op, PC)` and `PC <- PC + 2` (47_timers_keys.md R215; R232): HALT and ERR are not
written. -/
def execUnknown (op : Word) (s : State) : State :=
  ({ s with result := .diagnostic ⟨.unknownOpcode, .none, op, s.pc⟩ } : State).advance

/-- An instruction that touches the `n` bytes from `I` checks them all first: `Fatal(OutOfBounds, Data, 0x1000)` where one
does not exist, else `t` (20_memory.md R63; 44_index_memory.md R180). -/
def ifDataInMemory (n : Nat) (s : State) (t : State) : State :=
  if inMemory s.i.toNat n then t else raiseFatal .outOfBounds .data 0x1000 s

end Sys2Proof.Machine
end

