-- ==== Sys2Proof/Machine/Flags.lean ====
section
/-! DEFINITION. Every result and flag computation of the instruction set: the five arithmetic instructions
(43_arithmetic_flags.md R171 to R176). The collision flag of DXYN is in Screen.lean. -/

namespace Sys2Proof.Machine

/-- A one-bit flag as the byte `VF` receives, 0x00 or 0x01 (R170). -/
def flagByte (f : Bool) : Byte := if f then 1 else 0

/-- 8XY4: the exact sum truncated to a byte, and its carry (R171). -/
def addCarry (a b : Byte) : Byte × Bool :=
  let s := a.toNat + b.toNat
  (BitVec.ofNat 8 s, decide (s > 255))

/-- 8XY5 and 8XY7: minuend `a` less subtrahend `b`, and the not-borrow flag, 1 when `a >= b` (R172, R174). -/
def subNotBorrow (a b : Byte) : Byte × Bool := (a - b, decide (a.toNat ≥ b.toNat))

/-- 8XY6: the logical shift right by one, and the bit shifted out (R173). -/
def shiftRightOut (a : Byte) : Byte × Bool := (a >>> 1, a.getLsbD 0)

/-- 8XYE: the shift left by one, and the old bit 7 (R175). -/
def shiftLeftOut (a : Byte) : Byte × Bool := (a <<< 1, a.getLsbD 7)

/-- Write a result and its flag, then go on to the next instruction (R170). -/
def finishFlagged (x : Reg) (r : Byte × Bool) (s : State) : State := (s.setVFlag x r.1 (flagByte r.2)).advance

end Sys2Proof.Machine
end

