-- ==== Sys2Proof/Machine/Arithmetic.lean ====
section
/-! DEFINITION. Arithmetic and shifts that write the flag (43_arithmetic_flags.md R170 to R175): operands are read first,
the result is written, then `VF` (R170; D7). -/

namespace Sys2Proof.Machine

/-- 8XY4 `ADD Vx, Vy` (R171). -/
def execAddReg (x y : Reg) (s : State) : Answer := .next (finishFlagged x (addCarry (s.getV x) (s.getV y)) s)

/-- 8XY5 `SUB Vx, Vy`: `V[x]` less `V[y]` (R172). -/
def execSubReg (x y : Reg) (s : State) : Answer := .next (finishFlagged x (subNotBorrow (s.getV x) (s.getV y)) s)

/-- 8XY6 `SHR Vx`; `V[y]` is not used (R173; D8). -/
def execShr (x _y : Reg) (s : State) : Answer := .next (finishFlagged x (shiftRightOut (s.getV x)) s)

/-- 8XY7 `SUBN Vx, Vy`: `V[y]` less `V[x]` (R174; D9). -/
def execSubnReg (x y : Reg) (s : State) : Answer := .next (finishFlagged x (subNotBorrow (s.getV y) (s.getV x)) s)

/-- 8XYE `SHL Vx`; `V[y]` is not used (R175; D8). -/
def execShl (x _y : Reg) (s : State) : Answer := .next (finishFlagged x (shiftLeftOut (s.getV x)) s)

end Sys2Proof.Machine
end

