-- ==== Sys2Proof/Machine/Operands.lean ====
section
/-! DEFINITION. The operand forms: the addresses and values instructions form from registers, `I`, the keypad and the
opcode's fields (30_encoding.md R93; 44_index_memory.md R180). Address arithmetic is on unbounded numbers (00_scope.md R11). -/

namespace Sys2Proof.Machine

/-- `zext_16(nnn)`, the target or index a 12-bit address names (R93). -/
def targetOf (nnn : Addr12) : Word := nnn.setWidth 16

/-- BNNN's target, `nnn + V[0]`, an exact sum (41_control_flow.md R144; D10). -/
def targetPlusV0 (nnn : Addr12) (s : State) : Word := BitVec.ofNat 16 (nnn.toNat + (s.getV 0).toNat)

/-- FX1E's sum `I + V[x]`, exact (44_index_memory.md R182). -/
def indexPlus (x : Reg) (s : State) : Nat := s.i.toNat + (s.getV x).toNat

/-- FX29's address, `FONT_BASE + V[x] * 5`, on the whole byte (R183; D13). -/
def glyphAddress (x : Reg) (s : State) : Nat := Config.fontBase + (s.getV x).toNat * Config.glyphBytes

/-- FX33's three digits, hundreds, tens, units (R184). -/
def decimalDigits (v : Byte) : List Byte :=
  [BitVec.ofNat 8 (v.toNat / 100), BitVec.ofNat 8 (v.toNat / 10 % 10), BitVec.ofNat 8 (v.toNat % 10)]

/-- Registers `V[0]` to `V[x]`, the bytes FX55 stores (R185). -/
def registersUpTo (x : Reg) (s : State) : List Byte := s.v.toList.take (x.val + 1)

/-- A register file with bytes put into it from register `k` upward. -/
def registersFrom : Vector Byte 16 → Nat → List Byte → Vector Byte 16
  | v, _, [] => v
  | v, k, b :: bs => registersFrom (v.setIfInBounds k b) (k + 1) bs

/-- The register file after FX65: `V[k]` from `I + k` for `k` from 0 to `x`, the others as they were (R186). -/
def registersLoaded (x : Reg) (s : State) : Vector Byte 16 :=
  registersFrom s.v 0 (s.mem.readRange s.i.toNat (x.val + 1))

/-- Key `k` is held in a snapshot (10_state.md R40). -/
def keyHeld (ks : Keys) (k : Nat) : Bool := ks.getLsbD k

/-- The keys with a key-down edge: held in this cycle's snapshot and not in the one before (R36, R213). -/
def keyEdges (s : State) : Keys := s.keys &&& ~~~ s.keyPrev

/-- The lowest-numbered key of a set, if there is one (R213). -/
def lowestKey (ks : Keys) : Option Nat := (List.range 16).find? (fun k => ks.getLsbD k)

/-- EX9E and EXA1: a key index above 0xF is `Fatal(OutOfBounds, Key, V[x])`; else the skip, on the key's level (R149,
R150; D24). -/
def skipOnKey (x : Reg) (whenHeld : Bool) (s : State) : State :=
  if (s.getV x).toNat > 0xF then raiseFatal .outOfBounds .key ((s.getV x).setWidth 16) s
  else s.skipIf (keyHeld s.keys (s.getV x).toNat == whenHeld)

end Sys2Proof.Machine
end

