-- ==== Sys2Proof/Machine/ControlFlow.lean ====
section
/-! DEFINITION. Control flow (41_control_flow.md R140 to R150): RET, JP, CALL, JP V0, SE, SNE, SKP, SKNP. -/

namespace Sys2Proof.Machine

/-- 00EE `RET` (R141). -/
def execRet (s : State) : Answer :=
  .next (if s.sp = 0 then raiseFatal .stackUnderflow .none 0 s else s.popPc)

/-- 1NNN `JP nnn` (R142). -/
def execJp (nnn : Addr12) (s : State) : Answer := .next (s.setPc (targetOf nnn))

/-- 2NNN `CALL nnn` (R143). A stack pointer of 16 or more is full, log 8. -/
def execCall (nnn : Addr12) (s : State) : Answer :=
  .next (if s.sp < Config.stackDepth then (s.push (s.pc + 2)).setPc (targetOf nnn)
    else raiseFatal .stackOverflow .none 16 s)

/-- BNNN `JP V0, nnn` (R144). -/
def execJpV0 (nnn : Addr12) (s : State) : Answer := .next (s.setPc (targetPlusV0 nnn s))

/-- 3XNN `SE Vx, nn` (R145). -/
def execSeImm (x : Reg) (nn : Byte) (s : State) : Answer := .next (s.skipIf (s.getV x == nn))

/-- 4XNN `SNE Vx, nn` (R146). -/
def execSneImm (x : Reg) (nn : Byte) (s : State) : Answer := .next (s.skipIf (s.getV x != nn))

/-- 5XY0 `SE Vx, Vy` (R147). -/
def execSeReg (x y : Reg) (s : State) : Answer := .next (s.skipIf (s.getV x == s.getV y))

/-- 9XY0 `SNE Vx, Vy` (R148). -/
def execSneReg (x y : Reg) (s : State) : Answer := .next (s.skipIf (s.getV x != s.getV y))

/-- EX9E `SKP Vx` (R149). -/
def execSkp (x : Reg) (s : State) : Answer := .next (skipOnKey x true s)

/-- EXA1 `SKNP Vx` (R150). -/
def execSknp (x : Reg) (s : State) : Answer := .next (skipOnKey x false s)

end Sys2Proof.Machine
end

