-- ==== Sys2Proof/Machine/Screen.lean ====
section
/-! DEFINITION. The framebuffer and the pixel-write unit (10_state.md R33, R34; 46_draw.md R200 to R204). -/

namespace Sys2Proof.Machine

/-- `FB[y][x]` (R34). -/
def Screen.pixel (fb : Screen) (x : Fin 64) (y : Fin 32) : Bool := fb[y].getLsbD x.val

/-- `FB[y][x] <- FB[y][x] ^ 1` (R202). -/
def Screen.toggle (fb : Screen) (x : Fin 64) (y : Fin 32) : Screen := fb.set y (fb[y] ^^^ BitVec.twoPow 64 x.val)

/-- All 2048 pixels 0 (R200). -/
def Screen.blank : Screen := Vector.replicate 32 0

/-- The pixels that row `r` of a sprite toggles when its byte is `b` and the sprite stands at column `x0`, row `y0`: bit
`7 - c` is column offset `c`, and every pixel wraps modulo 64 and 32 (R201, R203; D18). -/
def rowPixels (x0 y0 r : Nat) (b : Byte) : List (Fin 64 × Fin 32) :=
  ((List.range 8).filter (fun c => b.getLsbD (7 - c))).map (fun c => (Fin.ofNat 64 (x0 + c), Fin.ofNat 32 (y0 + r)))

/-- The pixels a sprite toggles, row by row from row `r` on, the top row first (R201, R202). -/
def spritePixels (x0 y0 : Nat) : Nat → List Byte → List (Fin 64 × Fin 32)
  | _, [] => []
  | r, b :: bs => rowPixels x0 y0 r b ++ spritePixels x0 y0 (r + 1) bs

/-- Toggle the pixels one after the other; the flag is set when a pixel that is 1 is toggled (R202, R204). -/
def togglePixels : List (Fin 64 × Fin 32) → Screen × Bool → Screen × Bool
  | [], p => p
  | (x, y) :: rest, (fb, coll) => togglePixels rest (fb.toggle x y, coll || fb.pixel x y)

/-- A sprite drawn on a framebuffer, and whether any pixel went from 1 to 0 (R202). -/
def drawSprite (fb : Screen) (x0 y0 : Nat) (sprite : List Byte) : Screen × Bool :=
  togglePixels (spritePixels x0 y0 0 sprite) (fb, false)

end Sys2Proof.Machine
end

