-- ==== Sys2Proof/Machine/Draw.lean ====
section
/-! DEFINITION. Clear and draw (46_draw.md R200 to R205). -/

namespace Sys2Proof.Machine

/-- 00E0 `CLS` (R200). -/
def execCls (s : State) : Answer := .next (s.setScreen Screen.blank).advance

/-- The sprite `n` rows high at `I` drawn at column `V[x]`, row `V[y]`, both sampled before `VF` is written (R202). -/
def drawnAt (x y : Reg) (n : Nat) (s : State) : Screen × Bool :=
  drawSprite s.fb (s.getV x).toNat (s.getV y).toNat (s.mem.readRange s.i.toNat n)

/-- DXYN `DRW Vx, Vy, n`: `VF` is always written, `DRAW` is always set (R202, R204, R205). -/
def execDrw (x y : Reg) (n : Nat) (s : State) : Answer :=
  .next (ifDataInMemory n s
    (((s.setScreen (drawnAt x y n s).1).setV regF (flagByte (drawnAt x y n s).2)).advance))

end Sys2Proof.Machine
end

