-- ==== Sys2Proof/Machine/IndexMemory.lean ====
section
/-! DEFINITION. The index register and memory (44_index_memory.md R180 to R186). `I` is unchanged by FX33, FX55 and FX65
(D14), and a range is checked whole before anything is written (R63; D15). -/

namespace Sys2Proof.Machine

/-- ANNN `LD I, nnn` (R181). -/
def execLdI (nnn : Addr12) (s : State) : Answer := .next (s.setI (targetOf nnn)).advance

/-- FX1E `ADD I, Vx`: a sum above 0xFFF is `Fatal(OutOfBounds, Index, sum)` (R182; D12). -/
def execAddI (x : Reg) (s : State) : Answer :=
  .next (if indexPlus x s > 0xFFF then raiseFatal .outOfBounds .index (BitVec.ofNat 16 (indexPlus x s)) s
    else (s.setI (BitVec.ofNat 16 (indexPlus x s))).advance)

/-- FX29 `LD F, Vx` (R183; D13). -/
def execLdF (x : Reg) (s : State) : Answer := .next (s.setI (BitVec.ofNat 16 (glyphAddress x s))).advance

/-- FX33 `LD B, Vx` (R184). -/
def execLdB (x : Reg) (s : State) : Answer :=
  .next (ifDataInMemory 3 s (s.store s.i.toNat (decimalDigits (s.getV x))).advance)

/-- FX55 `LD [I], Vx` (R185). -/
def execStoreRegs (x : Reg) (s : State) : Answer :=
  .next (ifDataInMemory (x.val + 1) s (s.store s.i.toNat (registersUpTo x s)).advance)

/-- FX65 `LD Vx, [I]` (R186). -/
def execLoadRegs (x : Reg) (s : State) : Answer :=
  .next (ifDataInMemory (x.val + 1) s (s.setRegs (registersLoaded x s)).advance)

end Sys2Proof.Machine
end

