-- ==== Sys2Proof/Machine/Random.lean ====
section
/-! DEFINITION. The random instruction (45_random.md R190, R191). The byte is an input of the cycle, under no law (D21). -/

namespace Sys2Proof.Machine

/-- CXNN `RND Vx, nn` (R190). -/
def execRnd (x : Reg) (nn : Byte) (s : State) : Answer := .next (s.setV x (s.rnd &&& nn)).advance

end Sys2Proof.Machine
end

