-- ==== Sys2Proof/Machine/RegisterOps.lean ====
section
/-! DEFINITION. Register and immediate operations without a flag (42_register_ops.md R160 to R166). `VF` changes only as
the destination `x` (R160; D11). -/

namespace Sys2Proof.Machine

/-- 6XNN `LD Vx, nn` (R161). -/
def execLdImm (x : Reg) (nn : Byte) (s : State) : Answer := .next (s.setV x nn).advance

/-- 7XNN `ADD Vx, nn`, modulo 256 (R162). -/
def execAddImm (x : Reg) (nn : Byte) (s : State) : Answer := .next (s.setV x (s.getV x + nn)).advance

/-- 8XY0 `LD Vx, Vy` (R163). -/
def execLdReg (x y : Reg) (s : State) : Answer := .next (s.setV x (s.getV y)).advance

/-- 8XY1 `OR Vx, Vy` (R164). -/
def execOrReg (x y : Reg) (s : State) : Answer := .next (s.setV x (s.getV x ||| s.getV y)).advance

/-- 8XY2 `AND Vx, Vy` (R165). -/
def execAndReg (x y : Reg) (s : State) : Answer := .next (s.setV x (s.getV x &&& s.getV y)).advance

/-- 8XY3 `XOR Vx, Vy` (R166). -/
def execXorReg (x y : Reg) (s : State) : Answer := .next (s.setV x (s.getV x ^^^ s.getV y)).advance

end Sys2Proof.Machine
end

