-- ==== Sys2Proof/Machine/TimersKeys.lean ====
section
/-! DEFINITION. Timer access and the key-wait (47_timers_keys.md R210 to R214). -/

namespace Sys2Proof.Machine

/-- FX07 `LD Vx, DT` (R210). -/
def execLdVxDt (x : Reg) (s : State) : Answer := .next (s.setV x s.dt).advance

/-- FX0A `LD Vx, K`: hold `PC` until a key-down edge, then take the lowest key (R213; D22). -/
def execLdVxK (x : Reg) (s : State) : Answer :=
  .next (match lowestKey (keyEdges s) with
    | none => s
    | some k => (s.setV x (BitVec.ofNat 8 k)).advance)

/-- FX15 `LD DT, Vx` (R211). -/
def execLdDtVx (x : Reg) (s : State) : Answer := .next (s.setDt (s.getV x)).advance

/-- FX18 `LD ST, Vx` (R212). -/
def execLdStVx (x : Reg) (s : State) : Answer := .next (s.setSt (s.getV x)).advance

end Sys2Proof.Machine
end

