-- ==== Sys2Proof/Machine/Events.lean ====
section
/-! DEFINITION. The six atomic events of the block's interface (10_state.md R38): the instruction unit's Cycle (40_cycle.md
R120 to R127), the timer ticker (60_exceptions.md R245), Reset, Load, FbRead and the status read (70_reset_and_hazards.md
R270 to R282), and which of them comes next. -/

namespace Sys2Proof.Machine

/-! ### The cycle -/

/-- FETCH: the two bytes at `PC`, read afresh (R122; 20_memory.md R74). -/
def fetch (s : State) : Option Word := memReadWord s.mem s.pc.toNat

/-- The cycle takes its two inputs; its result is `Ok` unless the instruction says otherwise (R120, R127), and a `Load` has no
meaning from here on (70_reset_and_hazards.md R280). -/
def beginCycle (keys : Keys) (rnd : Byte) (s : State) : State :=
  { s with keys := keys, rnd := rnd, result := .ok, loadable := false }

/-- `KEY_PREV <- keys` closes every cycle that raised no Fatal (R126). -/
def closeCycle (s : State) : State := if s.halt then s else { s with keyPrev := s.keys }

/-- An answer with its next state closed. -/
def closeAnswer : Answer → Answer
  | .next s => .next (closeCycle s)
  | .fault r => .fault r
  | .refused r => .refused r

/-- DECODE and EXECUTE (R123, R124; 47_timers_keys.md R215). -/
def runOpcode (op : Word) (s : State) : Answer :=
  match decode op with
  | .instr i => closeAnswer (exec i s)
  | .unknown w => .next (closeCycle (execUnknown w s))

/-- `Cycle(keys, rnd)` (R120). A halted unit has no step (R121), log 4. -/
def cycle (keys : Keys) (rnd : Byte) (s : State) : Answer :=
  if s.halt then .fault (.halted s.err)
  else match fetch s with
    | none => .next (raiseFatal .outOfBounds .fetch s.pc (beginCycle keys rnd s))
    | some op => runOpcode op (beginCycle keys rnd s)

/-! ### The timer ticker -/

/-- A timer counts down to 0 and stays there (60_exceptions.md R245). -/
def countDown (t : Byte) : Byte := if t = 0 then 0 else t - 1

/-- `TimerTick` (R245): both timers, nothing else. It runs while halted too (R249). -/
def timerTick (s : State) : State := { s with dt := countDown s.dt, st := countDown s.st, result := .nothing }

/-! ### The host's events -/

/-- `Reset` (70_reset_and_hazards.md R270): every element at its reset value, whatever it was. The model's own record of the
outside world is no element of the block and stays. -/
def resetEvent (s : State) : State :=
  { State.reset with keys := s.keys, rnd := s.rnd, script := s.script, clock := s.clock }

/-- `Load(bytes)` (R278): too many bytes are rejected whole (R279; 60_exceptions.md R238); else they are placed from 0x200.
After the first cycle of a run, or while halted, it is refused (R280), log 5. -/
def load (bytes : List Byte) (s : State) : Answer :=
  if s.loadable && !s.halt then
    .next (if bytes.length > Config.loadMax then { s with result := .programTooLarge }
      else { s.store Config.progBase bytes with result := .loadAccepted })
  else .refused .loadAfterFirstCycle

/-- `FbRead` (R282): the whole framebuffer and the old `DRAW`, then `DRAW` is cleared. -/
def fbRead (s : State) : State := { s with result := .snapshot s.fb s.draw, draw := false }

/-- `SOUND`, the sound flag output (10_state.md R42). -/
def sound (s : State) : Bool := s.st != 0

/-- The status read: `SOUND`, `HALT` and `ERR`, and no change (R38). -/
def statusRead (s : State) : State := { s with result := .status (sound s) s.halt s.err }

/-! ### Which event comes next -/

/-- The next event: the first one queued, and with none queued the free value (R129, R248), log 1. -/
def nextEvent (s : State) : Event :=
  match s.script with
  | e :: _ => e
  | [] => Config.hostEvent s.clock

/-- The state with the next event taken off the queue and counted. -/
def takeEvent (s : State) : State := { s with script := s.script.tail, clock := s.clock + 1 }

/-- One event, performed whole (R38). -/
def perform (e : Event) (s : State) : Answer :=
  match e with
  | .reset => .next (resetEvent s)
  | .load bytes => load bytes s
  | .cycle keys rnd => cycle keys rnd s
  | .timerTick => .next (timerTick s)
  | .fbRead => .next (fbRead s)
  | .statusRead => .next (statusRead s)

/-! ### An instruction placed where the next step fetches it -/

/-- The next event is a cycle: the queue as it is where it says so, else a cycle put before it, with the inputs the state
shows. -/
def scriptWithCycle (s : State) : List Event :=
  match s.script with
  | .cycle k r :: rest => .cycle k r :: rest
  | other => .cycle s.keys s.rnd :: other

/-- `s` with an instruction's two bytes where the next step fetches: at `PC`, the high byte first; the next event a cycle
and the unit not halted, since both are what that fetch needs (log 11). A `PC` at which nothing can be fetched is left alone. -/
def placeOpcode (s : State) (op : Word) : State :=
  { s with
    mem := if inMemory s.pc.toNat 2 then s.mem.writeRange s.pc.toNat (bytesOfOpcode op) else s.mem
    script := scriptWithCycle s
    halt := false }

end Sys2Proof.Machine
end

