-- ==== Sys2Proof/Machine/Step.lean ====
section
/-! DEFINITION. One step of the machine: the next event, performed whole. -/

namespace Sys2Proof.Machine

/-- One atomic transition of the block (10_state.md R38, R129): the next event of the outside world. -/
def step (s : State) : Host.Outcome State Fault Refusal := perform (nextEvent s) (takeEvent s)

/-- `s` with an instruction, its bits numbered as opcode_table.json numbers them, stored where the next step fetches it. -/
def State.withFetchWord (s : State) (nbits w : Nat) : State := placeOpcode s (BitVec.ofNat 16 (w % 2 ^ nbits))

end Sys2Proof.Machine
end

