-- ==== Sys2Proof/Safety.lean ====
section
/-! DEFINITION. The terms in which claims are stated: the invariant of reachable states (10_state.md R49), a running unit, the
elements of state and the frame of a transition, and, written from the rules' own words and apart from the meanings, when an
instruction is fatal (60_exceptions.md R230, R240), where `PC` goes (40_cycle.md R124), what a store leaves (20_memory.md R74) and
what a sprite covers (46_draw.md R202, R203). -/

namespace Sys2Proof.Machine

/-! ### Safe states -/

/-- The unit is running: no fatal error has been raised since `Reset` (R37, R244). -/
def Running (s : State) : Prop := s.halt = false

/-- The fatal kinds of R230. -/
def ErrKind.isFatal : ErrKind → Bool
  | .stackOverflow | .stackUnderflow | .outOfBounds => true
  | .none | .unknownOpcode | .programTooLarge => false

/-- The invariant of every reachable state: R49's bounds on `SP`, `I` and `PC`, the return addresses that keep `PC` in its
bound (R141, R143), memory in its canonical form (log 6), and `HALT` and `ERR` agreeing (R37, R236). -/
structure StateInv (s : State) : Prop where
  memory : s.mem.wf = true
  index : s.i.toNat ≤ 0xFFF
  stackPointer : s.sp ≤ 16
  returns : ∀ k, k < s.sp → (s.stackAt k).toNat ≤ 0x1000
  counter : s.pc.toNat ≤ 0x10FE
  running : s.halt = false → s.err = ErrRec.clear
  halted : s.halt = true → s.err.kind.isFatal = true ∧ s.err.addr = s.pc

/-! ### Frames -/

/-- The elements of state one by one: each register, each byte of memory, each pixel, each stack entry, and the model's own
fields. -/
inductive Elem where
  | v (r : Reg)
  | i
  | pc
  | sp
  | stack (k : Nat)
  | dt
  | st
  | mem (a : Nat)
  | pixel (x : Fin 64) (y : Fin 32)
  | draw
  | keyPrev
  | halt
  | err
  | keys
  | rnd
  | result
  | loadable
  | script
  | clock

/-- The element holds in `t` what it holds in `s`. -/
def Elem.same (s t : State) : Elem → Prop
  | .v r => t.getV r = s.getV r
  | .i => t.i = s.i
  | .pc => t.pc = s.pc
  | .sp => t.sp = s.sp
  | .stack k => t.stackAt k = s.stackAt k
  | .dt => t.dt = s.dt
  | .st => t.st = s.st
  | .mem a => t.mem.read a = s.mem.read a
  | .pixel x y => t.fb.pixel x y = s.fb.pixel x y
  | .draw => t.draw = s.draw
  | .keyPrev => t.keyPrev = s.keyPrev
  | .halt => t.halt = s.halt
  | .err => t.err = s.err
  | .keys => t.keys = s.keys
  | .rnd => t.rnd = s.rnd
  | .result => t.result = s.result
  | .loadable => t.loadable = s.loadable
  | .script => t.script = s.script
  | .clock => t.clock = s.clock

/-- Every element but those `may` names is unchanged from `s` to `t`. -/
def Frame (may : Elem → Prop) (s t : State) : Prop := ∀ e, ¬ may e → e.same s t

/-- The transition is the fatal error `(kind, sub, info)` raised at `s` and nothing more (R236, R237). -/
def IsFatal (kind : ErrKind) (sub : SubCause) (info : Word) (s t : State) : Prop :=
  t.halt = true ∧ t.err = ⟨kind, sub, info, s.pc⟩ ∧ t.result = .fatal ⟨kind, sub, info, s.pc⟩ ∧
    Frame (fun e => e = .halt ∨ e = .err ∨ e = .result) s t

/-! ### What the rules say, apart from the meanings -/

/-- When an instruction raises a fatal error, from R230 and R240 ("each instruction has exactly one check that can fail"). -/
def raisesFatal (i : Instr) (s : State) : Prop :=
  match i with
  | .ret => s.sp = 0
  | .call _ => 16 ≤ s.sp
  | .addI x => 0xFFF < s.i.toNat + (s.getV x).toNat
  | .ldB _ => 0xFFF < s.i.toNat + 2
  | .storeRegs x => 0xFFF < s.i.toNat + x.val
  | .loadRegs x => 0xFFF < s.i.toNat + x.val
  | .drw _ _ n => 0 < n ∧ 0xFFF < s.i.toNat + n - 1
  | .skp x => 0xF < (s.getV x).toNat
  | .sknp x => 0xF < (s.getV x).toNat
  | .cls | .jp _ | .seImm _ _ | .sneImm _ _ | .seReg _ _ | .ldImm _ _ | .addImm _ _ | .ldReg _ _ | .orReg _ _
  | .andReg _ _ | .xorReg _ _ | .addReg _ _ | .subReg _ _ | .shr _ _ | .subnReg _ _ | .shl _ _ | .sneReg _ _
  | .ldI _ | .jpV0 _ | .rnd _ _ | .ldVxDt _ | .ldVxK _ | .ldDtVx _ | .ldStVx _ | .ldF _ => False

/-- The condition of a skip (R145 to R150); `none` for an instruction that is no skip. -/
def skipCondition (i : Instr) (s : State) : Option Bool :=
  match i with
  | .seImm x nn => some (decide (s.getV x = nn))
  | .sneImm x nn => some (decide (s.getV x ≠ nn))
  | .seReg x y => some (decide (s.getV x = s.getV y))
  | .sneReg x y => some (decide (s.getV x ≠ s.getV y))
  | .skp x => some (s.keys.getLsbD (s.getV x).toNat)
  | .sknp x => some (!s.keys.getLsbD (s.getV x).toNat)
  | .cls | .ret | .jp _ | .call _ | .ldImm _ _ | .addImm _ _ | .ldReg _ _ | .orReg _ _ | .andReg _ _ | .xorReg _ _
  | .addReg _ _ | .subReg _ _ | .shr _ _ | .subnReg _ _ | .shl _ _ | .ldI _ | .jpV0 _ | .rnd _ _ | .drw _ _ _
  | .ldVxDt _ | .ldVxK _ | .ldDtVx _ | .ldStVx _ | .addI _ | .ldF _ | .ldB _ | .storeRegs _ | .loadRegs _ => none

/-- The target of a transfer (R141 to R144); `none` for an instruction that is no transfer. -/
def transferTarget (i : Instr) (s : State) : Option Nat :=
  match i with
  | .jp nnn => some nnn.toNat
  | .call nnn => some nnn.toNat
  | .jpV0 nnn => some (nnn.toNat + (s.getV 0).toNat)
  | .ret => some (s.stackAt (s.sp - 1)).toNat
  | .cls | .seImm _ _ | .sneImm _ _ | .seReg _ _ | .sneReg _ _ | .skp _ | .sknp _ | .ldImm _ _ | .addImm _ _
  | .ldReg _ _ | .orReg _ _ | .andReg _ _ | .xorReg _ _ | .addReg _ _ | .subReg _ _ | .shr _ _ | .subnReg _ _
  | .shl _ _ | .ldI _ | .rnd _ _ | .drw _ _ _ | .ldVxDt _ | .ldVxK _ | .ldDtVx _ | .ldStVx _ | .addI _ | .ldF _
  | .ldB _ | .storeRegs _ | .loadRegs _ => none

/-- Some key has a key-down edge in this cycle (R36, R213). -/
def someEdge (s : State) : Prop := ∃ k, k < 16 ∧ s.keys.getLsbD k = true ∧ s.keyPrev.getLsbD k = false

/-- The byte at address `a` once `bytes` lie from `start` upward: the stored one where the range covers `a`, else what `s` holds there
(20_memory.md R63, R74). -/
def overlaid (s : State) (start : Nat) (bytes : List Byte) (a : Nat) : Byte :=
  if start ≤ a then bytes.getD (a - start) (s.mem.read a) else s.mem.read a

/-- The sprite of `n` rows at `I`, drawn at column `x0`, row `y0`, covers the pixel `(px, py)`: some 1 bit `c` of some row `r`
falls on it, modulo 64 and 32 (R201, R202, R203). -/
def covers (s : State) (x0 y0 n : Nat) (px : Fin 64) (py : Fin 32) : Prop :=
  ∃ r c, r < n ∧ c < 8 ∧ (s.mem.read (s.i.toNat + r)).getLsbD (7 - c) = true ∧
    (x0 + c) % 64 = px.val ∧ (y0 + r) % 32 = py.val

end Sys2Proof.Machine
end

