-- ==== Sys2Proof/Certificates/Slice0/Obligations.lean ====
section
/-! DEFINITION. The statements for the provers. "Frame may s t" says that every element of state `may` does not name is the
same in `t` as in `s`; memory is compared byte by byte, the framebuffer pixel by pixel (Safety.lean). An encoding clause rests
on the opcode table, which the spec itself takes from general knowledge (D1, log 14). -/

open Sys2Proof Sys2Proof.Machine

/-! ### Decoding and encoding -/

/-- Every instruction some opcode encodes is what its opcode decodes to, at every operand value. The bit patterns are the
spec's decision D1. -/
def Obligations.DecodeInvertsEncode : Prop := ∀ i : Instr, i.wf = true → decode (encode i) = .instr i

/-- Every word that decodes to an instruction is that instruction's one opcode, and the instruction is well-formed: no word has
two meanings and no bit is dropped (the bit patterns are D1). -/
def Obligations.EncodeInvertsDecode : Prop := ∀ (op : Word) (i : Instr), decode op = .instr i → i.wf = true ∧ encode i = op

/-- R94's "The masks make the rows disjoint": there are 34 rows, and no word hits two of them (R94 follows D3). -/
def Obligations.OpcodeRowsAreDisjoint : Prop :=
  opcodeTable.length = 34 ∧ opcodeTable.Pairwise (fun a b => ∀ op : Word, ¬ (a.hits op = true ∧ b.hits op = true))

/-- The UNKNOWN words are exactly those of R100's table, family by family (D1, D2, D3), and the decoder hands back the word. -/
def Obligations.UnknownWordsAreExactly : Prop :=
  ∀ op u : Word, decode op = .unknown u ↔ u = op ∧
    ((op.toNat / 0x1000 = 0x0 ∧ op ≠ 0x00E0 ∧ op ≠ 0x00EE) ∨
     (op.toNat / 0x1000 = 0x5 ∧ op.toNat % 16 ≠ 0) ∨
     (op.toNat / 0x1000 = 0x8 ∧ op.toNat % 16 ∈ [0x8, 0x9, 0xA, 0xB, 0xC, 0xD, 0xF]) ∨
     (op.toNat / 0x1000 = 0x9 ∧ op.toNat % 16 ≠ 0) ∨
     (op.toNat / 0x1000 = 0xE ∧ op.toNat % 256 ∉ [0x9E, 0xA1]) ∨
     (op.toNat / 0x1000 = 0xF ∧ op.toNat % 256 ∉ [0x07, 0x0A, 0x15, 0x18, 0x1E, 0x29, 0x33, 0x55, 0x65]))

/-- Words written out from the spec's encodings, one or more for each of the sixteen families 0x0 to 0xF (`op[15:12]`), decode to
what they stand for, and one that is one nibble away is UNKNOWN (vectors of 95_test_vectors.md section 2.1, after D1). -/
def Obligations.SampleWordsDecode : Prop :=
  decode 0x00E0 = .instr .cls ∧ decode 0x00EE = .instr .ret ∧ decode 0x1ABC = .instr (.jp 0xABC) ∧
  decode 0x2ABC = .instr (.call 0xABC) ∧ decode 0x3A7F = .instr (.seImm 0xA 0x7F) ∧
  decode 0x4B00 = .instr (.sneImm 0xB 0x00) ∧ decode 0x5AB0 = .instr (.seReg 0xA 0xB) ∧
  decode 0x6C12 = .instr (.ldImm 0xC 0x12) ∧ decode 0x7D34 = .instr (.addImm 0xD 0x34) ∧
  decode 0x8AB6 = .instr (.shr 0xA 0xB) ∧ decode 0x9AB0 = .instr (.sneReg 0xA 0xB) ∧ decode 0xA123 = .instr (.ldI 0x123) ∧
  decode 0xB123 = .instr (.jpV0 0x123) ∧ decode 0xC5F0 = .instr (.rnd 5 0xF0) ∧
  decode 0xD123 = .instr (.drw 1 2 3) ∧ decode 0xE5A1 = .instr (.sknp 5) ∧ decode 0xF533 = .instr (.ldB 5) ∧
  decode 0x8AB8 = .unknown 0x8AB8

/-! ### The cycle -/

/-- FETCH (R122): the two bytes at `PC` as they are at the start of the cycle, the one at the lower address high, whenever
`PC + 1` is at most 0xFFF, `PC` even or odd; otherwise the running unit's cycle raises Fatal(OutOfBounds, Fetch, PC), changing
nothing but the halt. That the byte at the lower address is the high one is the spec's D4 (log 14). The model's own: the cycle has
by then put its two inputs into State (log 2, DESIGN CHOICE) and ended the time in which a Load has a meaning (log 5, DEDUCED). -/
def Obligations.FetchReadsTwoBytesOrHalts : Prop :=
  ∀ s : State,
    (s.pc.toNat + 1 ≤ 0xFFF → fetch s = some (s.mem.read s.pc.toNat ++ s.mem.read (s.pc.toNat + 1))) ∧
    (0xFFF < s.pc.toNat + 1 → fetch s = none ∧
      ∀ (keys : Keys) (rnd : Byte), Running s →
        ∃ t, cycle keys rnd s = .next t ∧ IsFatal .outOfBounds .fetch s.pc (beginCycle keys rnd s) t)

/-- A step runs the decoded instruction: when the next event is a cycle, the unit is running, and the bytes at `PC` decode to
an instruction, the step is exec of it, on the state with the event taken and the cycle begun, closed by KEY_PREV <- keys
unless a Fatal was raised (R120, R126; D4, D23). -/
def Obligations.StepRunsDecodedInstruction : Prop :=
  ∀ (s : State) (keys : Keys) (rnd : Byte) (i : Instr),
    nextEvent s = .cycle keys rnd → Running s → s.pc.toNat + 1 ≤ 0xFFF →
    decode (s.mem.read s.pc.toNat ++ s.mem.read (s.pc.toNat + 1)) = .instr i →
    step s = (match exec i (beginCycle keys rnd (takeEvent s)) with
      | .next t => .next (if t.halt then t else { t with keyPrev := t.keys })
      | .fault r => .fault r
      | .refused r => .refused r)

/-- A step on an UNKNOWN word (R215; D25): the diagnostic with the opcode and its address, `PC + 2`, KEY_PREV <- keys (D23),
and nothing else but the event's own bookkeeping. -/
def Obligations.StepReportsUnknownOpcode : Prop :=
  ∀ (s : State) (keys : Keys) (rnd : Byte) (op : Word),
    nextEvent s = .cycle keys rnd → Running s → s.pc.toNat + 1 ≤ 0xFFF →
    decode (s.mem.read s.pc.toNat ++ s.mem.read (s.pc.toNat + 1)) = .unknown op →
    ∃ t, step s = .next t ∧ t.result = .diagnostic ⟨.unknownOpcode, .none, op, s.pc⟩ ∧ t.pc = s.pc + 2 ∧
      t.keyPrev = keys ∧
      Frame (fun e => e = .pc ∨ e = .keyPrev ∨ e = .result ∨ e = .keys ∨ e = .rnd ∨ e = .loadable ∨ e = .script ∨ e = .clock) s t

/-- A halted unit has no cycle step: the answer is the latched error again (R121; D26, log 4). -/
def Obligations.HaltedUnitHasNoCycle : Prop :=
  ∀ (s : State) (keys : Keys) (rnd : Byte), nextEvent s = .cycle keys rnd → s.halt = true → step s = .fault (.halted s.err)

/-- Nothing but Reset leaves the halted condition, and while halted nothing changes but the timers, DRAW and the model's own
record of events (R241, R249; D26, D32). -/
def Obligations.OnlyResetLeavesHalt : Prop :=
  ∀ s t : State, s.halt = true → step s = .next t → nextEvent s ≠ .reset →
    t.halt = true ∧ t.err = s.err ∧
      Frame (fun e => e = .dt ∨ e = .st ∨ e = .draw ∨ e = .result ∨ e = .script ∨ e = .clock) s t

/-- KEY_PREV closes every cycle that raised no Fatal, whatever ran, and is left alone by one that did (R126, R237; D23). -/
def Obligations.CycleRecordsKeys : Prop :=
  ∀ (s t : State) (keys : Keys) (rnd : Byte), nextEvent s = .cycle keys rnd → step s = .next t →
    t.keys = keys ∧ (t.halt = false → t.keyPrev = keys) ∧ (t.halt = true → t.keyPrev = s.keyPrev)

/-! ### The ticker and the host's events -/

/-- TimerTick (R245): each timer one lower unless it is 0, both in the same tick, halted or not, and nothing else of the
block. -/
def Obligations.TimerTickCountsBothDown : Prop :=
  ∀ s : State, nextEvent s = .timerTick →
    ∃ t, step s = .next t ∧ t.dt.toNat = s.dt.toNat - 1 ∧ t.st.toNat = s.st.toNat - 1 ∧
      Frame (fun e => e = .dt ∨ e = .st ∨ e = .result ∨ e = .script ∨ e = .clock) s t

/-- `n` ticks in a row leave each timer at its old value less `n`, never below 0 (R245, R292). -/
def Obligations.TicksInARowSaturateAtZero : Prop :=
  ∀ (n : Nat) (rest : List Event) (s : State), s.script = List.replicate n .timerTick ++ rest →
    ∃ t, Sys2Proof.core.run n s = .next t ∧ t.dt.toNat = s.dt.toNat - n ∧ t.st.toNat = s.st.toNat - n ∧ t.script = rest

/-- Reset writes every element, whatever the state was (R270): the values of D28, D29, D20, D23 and D26, PC 0x200 and the font,
of which glyph 0 is the source's and the others are D17's. -/
def Obligations.ResetWritesEveryElement : Prop :=
  ∀ s : State, nextEvent s = .reset →
    ∃ t, step s = .next t ∧ (∀ r, t.getV r = 0) ∧ t.i = 0 ∧ t.pc = 0x200 ∧ t.sp = 0 ∧ (∀ k, t.stackAt k = 0) ∧
      t.dt = 0 ∧ t.st = 0 ∧ [t.mem.read 0, t.mem.read 1, t.mem.read 2, t.mem.read 3, t.mem.read 4] = [0xF0, 0x90, 0x90, 0x90, 0xF0] ∧
      (∀ a, a < 80 → t.mem.read a = font.getD a 0) ∧ (∀ a, 0x50 ≤ a → t.mem.read a = 0) ∧
      (∀ x y, t.fb.pixel x y = false) ∧ t.draw = true ∧ t.keyPrev = 0 ∧ t.halt = false ∧ t.err = ⟨.none, .none, 0, 0⟩

/-- Load (R278), directly after a Reset (R280): an image of at most LOAD_MAX bytes lies from 0x200 upward, in the order given,
and nothing else changes; a longer one is rejected whole. That LOAD_MAX is 3584 is the spec's D30. -/
def Obligations.LoadPlacesImageOrRejects : Prop :=
  ∀ (s : State) (bytes : List Byte), nextEvent s = .load bytes → s.loadable = true → Running s → s.mem.wf = true →
    (bytes.length ≤ 3584 → ∃ t, step s = .next t ∧ t.result = .loadAccepted ∧
      (∀ j (h : j < bytes.length), t.mem.read (0x200 + j) = bytes[j]) ∧
      Frame (fun e => (∃ j, j < bytes.length ∧ e = .mem (0x200 + j)) ∨ e = .result ∨ e = .script ∨ e = .clock) s t) ∧
    (3584 < bytes.length → ∃ t, step s = .next t ∧ t.result = .programTooLarge ∧
      Frame (fun e => e = .result ∨ e = .script ∨ e = .clock) s t)

/-- The model's choice after R280 and U20 (log 5): a Load after the first cycle of a run, or while halted, has no meaning. Any
cycle that answers a next state ends the time in which a Load has one. -/
def Obligations.LoadIsRefusedOnceCyclesRan : Prop :=
  (∀ (s : State) (bytes : List Byte), nextEvent s = .load bytes → (s.loadable = false ∨ s.halt = true) →
    step s = .refused .loadAfterFirstCycle) ∧
  (∀ (s t : State) (keys : Keys) (rnd : Byte), nextEvent s = .cycle keys rnd → step s = .next t → t.loadable = false)

/-- FbRead (R282; D39) answers the whole framebuffer and the old DRAW and clears DRAW; the status read (R38, R42; D34) answers
SOUND, which is 1 exactly while ST is not 0, HALT and ERR. Neither changes anything else. -/
def Obligations.HostReadsAnswerAndChangeNothingElse : Prop :=
  (∀ s : State, nextEvent s = .fbRead →
    ∃ t, step s = .next t ∧ t.result = .snapshot s.fb s.draw ∧ t.draw = false ∧
      Frame (fun e => e = .draw ∨ e = .result ∨ e = .script ∨ e = .clock) s t) ∧
  (∀ s : State, nextEvent s = .statusRead →
    ∃ t, step s = .next t ∧ t.result = .status (decide (s.st ≠ 0)) s.halt s.err ∧
      Frame (fun e => e = .result ∨ e = .script ∨ e = .clock) s t)

/-! ### Control flow -/

/-- JP (R142): any 12-bit target, even or odd, below or above the program; no other element changes. A target of 0xFFF is stored,
and the next cycle of the running unit raises Fatal(OutOfBounds, Fetch, 0x0FFF). -/
def Obligations.JumpSetsPc : Prop :=
  ∀ (nnn : Addr12) (s : State), encode (.jp nnn) = 0x1000 ||| nnn.setWidth 16 ∧
    ∃ t, exec (.jp nnn) s = .next t ∧ t.pc.toNat = nnn.toNat ∧ Frame (fun e => e = .pc) s t ∧
      (nnn = 0xFFF → Running s → ∀ (keys : Keys) (rnd : Byte),
        ∃ u, cycle keys rnd t = .next u ∧ IsFatal .outOfBounds .fetch 0x0FFF (beginCycle keys rnd t) u)

/-- CALL (R143): below 16 frames it stores `PC + 2` in STACK[SP], then raises SP, then jumps; at 16 it is
Fatal(StackOverflow, 0, 16). -/
def Obligations.CallPushesThenJumps : Prop :=
  ∀ (nnn : Addr12) (s : State), encode (.call nnn) = 0x2000 ||| nnn.setWidth 16 ∧
    (s.sp < 16 → ∃ t, exec (.call nnn) s = .next t ∧ t.stackAt s.sp = s.pc + 2 ∧ t.sp = s.sp + 1 ∧ t.pc.toNat = nnn.toNat ∧
      Frame (fun e => e = .stack s.sp ∨ e = .sp ∨ e = .pc) s t) ∧
    (s.sp = 16 → ∃ t, exec (.call nnn) s = .next t ∧ IsFatal .stackOverflow .none 16 s t)

/-- RET (R141): it lowers SP, then takes PC from STACK[SP] with nothing added, the entry staying. The value it reads, where a CALL
pushed that entry and it is still there, is that CALL's `PC + 2`, at most 0x1000 for a CALL that was fetched; a return to 0x1000
makes the next cycle of the running unit raise Fatal(OutOfBounds, Fetch, 0x1000). At SP = 0 it is Fatal(StackUnderflow, 0, 0): SP
stays 0 and PC stays at the RET. -/
def Obligations.ReturnPopsPc : Prop :=
  ∀ s : State, encode .ret = 0x00EE ∧
    (0 < s.sp → ∃ t, exec .ret s = .next t ∧ t.sp = s.sp - 1 ∧ t.pc = s.stackAt (s.sp - 1) ∧
      Frame (fun e => e = .sp ∨ e = .pc) s t ∧
      (∀ (nnn : Addr12) (c d : State), c.sp < 16 → exec (.call nnn) c = .next d →
        s.sp = c.sp + 1 → s.stackAt c.sp = d.stackAt c.sp →
        t.pc = c.pc + 2 ∧ (c.pc.toNat ≤ 0xFFE → t.pc.toNat ≤ 0x1000)) ∧
      (s.stackAt (s.sp - 1) = 0x1000 → Running s → ∀ (keys : Keys) (rnd : Byte),
        ∃ u, cycle keys rnd t = .next u ∧ IsFatal .outOfBounds .fetch 0x1000 (beginCycle keys rnd t) u)) ∧
    (s.sp = 0 → ∃ t, exec .ret s = .next t ∧ IsFatal .stackUnderflow .none 0 s t)

/-- BNNN (R144; D10, the spec's own choice): the exact sum of `nnn` and V0, at most 0x10FE, not masked. -/
def Obligations.JumpPlusV0IsExact : Prop :=
  ∀ (nnn : Addr12) (s : State),
    ∃ t, exec (.jpV0 nnn) s = .next t ∧ t.pc.toNat = nnn.toNat + (s.getV 0).toNat ∧ t.pc.toNat ≤ 0x10FE ∧
      Frame (fun e => e = .pc) s t

/-- A call and then a return come back to the call site plus 2 with the stack pointer as it was (R141, R143). -/
def Obligations.CallThenReturnComesBack : Prop :=
  ∀ (nnn : Addr12) (s t u : State), s.sp < 16 → exec (.call nnn) s = .next t →
    u.stack = t.stack → u.sp = t.sp → ∃ w, exec .ret u = .next w ∧ w.pc = s.pc + 2 ∧ w.sp = s.sp

/-- SE and SNE with an immediate (R145, R146): 4 on when the condition holds, else 2, and nothing else changes. -/
def Obligations.SkipOnImmediate : Prop :=
  ∀ (x : Reg) (nn : Byte) (s : State),
    encode (.seImm x nn) = 0x3000 ||| (BitVec.ofNat 16 x.val <<< 8) ||| nn.setWidth 16 ∧
    encode (.sneImm x nn) = 0x4000 ||| (BitVec.ofNat 16 x.val <<< 8) ||| nn.setWidth 16 ∧
    (∃ t, exec (.seImm x nn) s = .next t ∧ t.pc = s.pc + (if s.getV x = nn then 4 else 2) ∧ Frame (fun e => e = .pc) s t) ∧
    (∃ t, exec (.sneImm x nn) s = .next t ∧ t.pc = s.pc + (if s.getV x = nn then 2 else 4) ∧ Frame (fun e => e = .pc) s t)

/-- SE and SNE between registers (R147, R148): 4 on when the registers are equal, respectively differ, else 2, and nothing else
changes. -/
def Obligations.SkipOnRegisters : Prop :=
  ∀ (x y : Reg) (s : State),
    encode (.seReg x y) = 0x5000 ||| (BitVec.ofNat 16 x.val <<< 8) ||| (BitVec.ofNat 16 y.val <<< 4) ∧
    encode (.sneReg x y) = 0x9000 ||| (BitVec.ofNat 16 x.val <<< 8) ||| (BitVec.ofNat 16 y.val <<< 4) ∧
    (∃ t, exec (.seReg x y) s = .next t ∧ t.pc = s.pc + (if s.getV x = s.getV y then 4 else 2) ∧ Frame (fun e => e = .pc) s t) ∧
    (∃ t, exec (.sneReg x y) s = .next t ∧ t.pc = s.pc + (if s.getV x = s.getV y then 2 else 4) ∧ Frame (fun e => e = .pc) s t)

/-- SKP and SKNP (R149, R150; D24): for a key index up to 0xF, the skip on the level of that key in this cycle's snapshot,
KEY_PREV not consulted; above it, Fatal(OutOfBounds, Key, V[x]). -/
def Obligations.SkipOnKeyLevel : Prop :=
  ∀ (x : Reg) (s : State),
    ((s.getV x).toNat ≤ 0xF →
      (∃ t, exec (.skp x) s = .next t ∧ t.pc = s.pc + (if s.keys.getLsbD (s.getV x).toNat then 4 else 2) ∧
        Frame (fun e => e = .pc) s t) ∧
      (∃ t, exec (.sknp x) s = .next t ∧ t.pc = s.pc + (if s.keys.getLsbD (s.getV x).toNat then 2 else 4) ∧
        Frame (fun e => e = .pc) s t)) ∧
    (0xF < (s.getV x).toNat →
      (∃ t, exec (.skp x) s = .next t ∧ IsFatal .outOfBounds .key ((s.getV x).setWidth 16) s t) ∧
      (∃ t, exec (.sknp x) s = .next t ∧ IsFatal .outOfBounds .key ((s.getV x).setWidth 16) s t))

/-! ### Register operations -/

/-- LD Vx, nn and LD Vx, Vy (R161, R163): one register written, VF only as that register. -/
def Obligations.LoadsWriteOneRegister : Prop :=
  ∀ (x y : Reg) (nn : Byte) (s : State),
    encode (.ldImm x nn) = 0x6000 ||| (BitVec.ofNat 16 x.val <<< 8) ||| nn.setWidth 16 ∧
    encode (.ldReg x y) = 0x8000 ||| (BitVec.ofNat 16 x.val <<< 8) ||| (BitVec.ofNat 16 y.val <<< 4) ∧
    (∃ t, exec (.ldImm x nn) s = .next t ∧ t.getV x = nn ∧ t.pc = s.pc + 2 ∧ Frame (fun e => e = .v x ∨ e = .pc) s t) ∧
    (∃ t, exec (.ldReg x y) s = .next t ∧ t.getV x = s.getV y ∧ t.pc = s.pc + 2 ∧ Frame (fun e => e = .v x ∨ e = .pc) s t)

/-- ADD Vx, nn (R162): the sum modulo 256, and VF not written unless it is the destination. -/
def Obligations.AddImmediateWrapsWithoutFlag : Prop :=
  ∀ (x : Reg) (nn : Byte) (s : State),
    encode (.addImm x nn) = 0x7000 ||| (BitVec.ofNat 16 x.val <<< 8) ||| nn.setWidth 16 ∧
    ∃ t, exec (.addImm x nn) s = .next t ∧ (t.getV x).toNat = ((s.getV x).toNat + nn.toNat) % 256 ∧ t.pc = s.pc + 2 ∧
      Frame (fun e => e = .v x ∨ e = .pc) s t

/-- OR, AND and XOR bit by bit (R164, R165, R166); that VF is not written is the spec's D11. -/
def Obligations.BitwiseOpsAreBitwise : Prop :=
  ∀ (x y : Reg) (s : State),
    (∃ t, exec (.orReg x y) s = .next t ∧ (∀ k, k < 8 → (t.getV x).getLsbD k = ((s.getV x).getLsbD k || (s.getV y).getLsbD k)) ∧
      t.pc = s.pc + 2 ∧ Frame (fun e => e = .v x ∨ e = .pc) s t) ∧
    (∃ t, exec (.andReg x y) s = .next t ∧ (∀ k, k < 8 → (t.getV x).getLsbD k = ((s.getV x).getLsbD k && (s.getV y).getLsbD k)) ∧
      t.pc = s.pc + 2 ∧ Frame (fun e => e = .v x ∨ e = .pc) s t) ∧
    (∃ t, exec (.xorReg x y) s = .next t ∧ (∀ k, k < 8 → (t.getV x).getLsbD k = ((s.getV x).getLsbD k ^^ (s.getV y).getLsbD k)) ∧
      t.pc = s.pc + 2 ∧ Frame (fun e => e = .v x ∨ e = .pc) s t)

/-! ### Arithmetic with the flag -/

/-- ADD Vx, Vy (R171): VF is 1 exactly when the exact sum exceeds 255, for every x; the register holds the sum modulo 256 when
it is not VF. That VF is written last is the spec's D7. -/
def Obligations.AddSetsCarry : Prop :=
  ∀ (x y : Reg) (s : State),
    ∃ t, exec (.addReg x y) s = .next t ∧
      t.getV 0xF = (if (s.getV x).toNat + (s.getV y).toNat > 255 then 1 else 0) ∧
      (x ≠ 0xF → (t.getV x).toNat = ((s.getV x).toNat + (s.getV y).toNat) % 256) ∧
      t.pc = s.pc + 2 ∧ Frame (fun e => e = .v x ∨ e = .v 0xF ∨ e = .pc) s t

/-- SUB and SUBN (R172, R174): VF is 1 exactly when there is no borrow; the register holds the difference modulo 256 when it is
not VF. The write order is D7; that 8XY7 exchanges the operands is D9. -/
def Obligations.SubtractsSetNotBorrow : Prop :=
  ∀ (x y : Reg) (s : State),
    (∃ t, exec (.subReg x y) s = .next t ∧
      t.getV 0xF = (if (s.getV x).toNat ≥ (s.getV y).toNat then 1 else 0) ∧
      (x ≠ 0xF → (t.getV x).toNat = ((s.getV x).toNat + 256 - (s.getV y).toNat) % 256) ∧
      t.pc = s.pc + 2 ∧ Frame (fun e => e = .v x ∨ e = .v 0xF ∨ e = .pc) s t) ∧
    (∃ t, exec (.subnReg x y) s = .next t ∧
      t.getV 0xF = (if (s.getV y).toNat ≥ (s.getV x).toNat then 1 else 0) ∧
      (x ≠ 0xF → (t.getV x).toNat = ((s.getV y).toNat + 256 - (s.getV x).toNat) % 256) ∧
      t.pc = s.pc + 2 ∧ Frame (fun e => e = .v x ∨ e = .v 0xF ∨ e = .pc) s t)

/-- SHR and SHL (R173, R175): V[x] by one place, VF the bit shifted out, V[y] not used (D8), VF last (D7). -/
def Obligations.ShiftsSetBitShiftedOut : Prop :=
  ∀ (x y : Reg) (s : State),
    (∃ t, exec (.shr x y) s = .next t ∧
      (t.getV 0xF).toNat = (s.getV x).toNat % 2 ∧
      (x ≠ 0xF → (t.getV x).toNat = (s.getV x).toNat / 2) ∧
      t.pc = s.pc + 2 ∧ Frame (fun e => e = .v x ∨ e = .v 0xF ∨ e = .pc) s t) ∧
    (∃ t, exec (.shl x y) s = .next t ∧
      (t.getV 0xF).toNat = (s.getV x).toNat / 128 ∧
      (x ≠ 0xF → (t.getV x).toNat = (s.getV x).toNat * 2 % 256) ∧
      t.pc = s.pc + 2 ∧ Frame (fun e => e = .v x ∨ e = .v 0xF ∨ e = .pc) s t)

/-! ### Index and memory -/

/-- LD I, nnn (R181): I becomes the 12-bit address, and nothing else changes but PC, which goes on by 2. -/
def Obligations.LoadIndexSetsI : Prop :=
  ∀ (nnn : Addr12) (s : State), encode (.ldI nnn) = 0xA000 ||| nnn.setWidth 16 ∧
    ∃ t, exec (.ldI nnn) s = .next t ∧ t.i.toNat = nnn.toNat ∧ t.pc = s.pc + 2 ∧ Frame (fun e => e = .i ∨ e = .pc) s t

/-- ADD I, Vx (R182; D11, D12): the exact sum up to 0xFFF, above it Fatal(OutOfBounds, Index, sum) with I as it was, for every
I the machine reaches (at most 0xFFF). -/
def Obligations.AddIndexIsExactOrFatal : Prop :=
  ∀ (x : Reg) (s : State), s.i.toNat ≤ 0xFFF →
    (s.i.toNat + (s.getV x).toNat ≤ 0xFFF → ∃ t, exec (.addI x) s = .next t ∧
      t.i.toNat = s.i.toNat + (s.getV x).toNat ∧ t.pc = s.pc + 2 ∧ Frame (fun e => e = .i ∨ e = .pc) s t) ∧
    (0xFFF < s.i.toNat + (s.getV x).toNat → ∃ (info : Word) (t : State), info.toNat = s.i.toNat + (s.getV x).toNat ∧
      exec (.addI x) s = .next t ∧ IsFatal .outOfBounds .index info s t)

/-- LD F, Vx (R183; D13): five times the whole byte, at most 1275. -/
def Obligations.FontIndexIsFiveTimesDigit : Prop :=
  ∀ (x : Reg) (s : State),
    ∃ t, exec (.ldF x) s = .next t ∧ t.i.toNat = 0x000 + (s.getV x).toNat * 5 ∧ t.i.toNat ≤ 1275 ∧ t.pc = s.pc + 2 ∧
      Frame (fun e => e = .i ∨ e = .pc) s t

/-- LD B, Vx (R184): the three decimal digits of V[x] at I, I + 1, I + 2, hundreds first; Fatal(OutOfBounds, Data, 0x1000) when
I + 2 is above 0xFFF, with no byte written. -/
def Obligations.DecimalStoreWritesDigits : Prop :=
  ∀ (x : Reg) (s : State), s.mem.wf = true →
    encode (.ldB x) = 0xF033 ||| (BitVec.ofNat 16 x.val <<< 8) ∧
    (s.i.toNat + 2 ≤ 0xFFF → ∃ t, exec (.ldB x) s = .next t ∧
      (t.mem.read s.i.toNat).toNat = (s.getV x).toNat / 100 ∧
      (t.mem.read (s.i.toNat + 1)).toNat = (s.getV x).toNat / 10 % 10 ∧
      (t.mem.read (s.i.toNat + 2)).toNat = (s.getV x).toNat % 10 ∧ t.pc = s.pc + 2 ∧
      Frame (fun e => e = .mem s.i.toNat ∨ e = .mem (s.i.toNat + 1) ∨ e = .mem (s.i.toNat + 2) ∨ e = .pc) s t) ∧
    (0xFFF < s.i.toNat + 2 → ∃ t, exec (.ldB x) s = .next t ∧ IsFatal .outOfBounds .data 0x1000 s t)

/-- LD [I], Vx (R185; D14, D15): V[k] at I + k for k from 0 to x, I unchanged; the range is checked first. -/
def Obligations.StoreRegistersWritesThem : Prop :=
  ∀ (x : Reg) (s : State), s.mem.wf = true →
    (s.i.toNat + x.val ≤ 0xFFF → ∃ t, exec (.storeRegs x) s = .next t ∧
      (∀ k : Reg, k ≤ x → t.mem.read (s.i.toNat + k.val) = s.getV k) ∧ t.pc = s.pc + 2 ∧
      Frame (fun e => (∃ k : Reg, k ≤ x ∧ e = .mem (s.i.toNat + k.val)) ∨ e = .pc) s t) ∧
    (0xFFF < s.i.toNat + x.val → ∃ t, exec (.storeRegs x) s = .next t ∧ IsFatal .outOfBounds .data 0x1000 s t)

/-- LD Vx, [I] (R186; D14, D15): V[k] from I + k for k from 0 to x, the other registers, I and memory unchanged. -/
def Obligations.LoadRegistersReadsThem : Prop :=
  ∀ (x : Reg) (s : State),
    (s.i.toNat + x.val ≤ 0xFFF → ∃ t, exec (.loadRegs x) s = .next t ∧
      (∀ k : Reg, k ≤ x → t.getV k = s.mem.read (s.i.toNat + k.val)) ∧ t.pc = s.pc + 2 ∧
      Frame (fun e => (∃ k : Reg, k ≤ x ∧ e = .v k) ∨ e = .pc) s t) ∧
    (0xFFF < s.i.toNat + x.val → ∃ t, exec (.loadRegs x) s = .next t ∧ IsFatal .outOfBounds .data 0x1000 s t)

/-- FX65 undoes FX55 (R186: "bulk-load the inverse"): storing registers and loading them into any other register file with the
same x and I gives V[0] to V[x] back. -/
def Obligations.LoadUndoesStore : Prop :=
  ∀ (x : Reg) (s t u : State), s.mem.wf = true → s.i.toNat + x.val ≤ 0xFFF → exec (.storeRegs x) s = .next t →
    u.mem = t.mem → u.i = s.i → ∃ w, exec (.loadRegs x) u = .next w ∧ ∀ k : Reg, k ≤ x → w.getV k = s.getV k

/-- What FX55 or FX33 stores, every later fetch reads, the very next one included, with nothing in between (R74): wherever the
stored range lies and whether it covers both bytes of an instruction, one or none, a fetch in any state with that memory, at any
PC up to 0xFFE, reads each of its two bytes from the stored ones where the range covers it and as it was before elsewhere. The
state right after the store is such a state, with PC at `PC + 2`. That the higher byte is the one at the lower address is D4; that a
range past 0xFFF stores nothing is D15, and stated of each of the two beside it. -/
def Obligations.StoreIsSeenByNextFetch : Prop :=
  ∀ (x : Reg) (s : State), s.mem.wf = true →
    (s.i.toNat + x.val ≤ 0xFFF → ∃ t, exec (.storeRegs x) s = .next t ∧ t.pc = s.pc + 2 ∧
      ∀ u : State, u.mem = t.mem → u.pc.toNat + 1 ≤ 0xFFF →
        fetch u = some
          (overlaid s s.i.toNat ((List.range (x.val + 1)).map (fun k => s.getV (Fin.ofNat 16 k))) u.pc.toNat ++
            overlaid s s.i.toNat ((List.range (x.val + 1)).map (fun k => s.getV (Fin.ofNat 16 k))) (u.pc.toNat + 1))) ∧
    (s.i.toNat + 2 ≤ 0xFFF → ∃ t, exec (.ldB x) s = .next t ∧ t.pc = s.pc + 2 ∧
      ∀ u : State, u.mem = t.mem → u.pc.toNat + 1 ≤ 0xFFF →
        fetch u = some
          (overlaid s s.i.toNat [(s.getV x) / 100, (s.getV x) / 10 % 10, (s.getV x) % 10] u.pc.toNat ++
            overlaid s s.i.toNat [(s.getV x) / 100, (s.getV x) / 10 % 10, (s.getV x) % 10] (u.pc.toNat + 1)))

/-! ### Random, clear and draw -/

/-- RND (R190): the cycle's random byte, whatever it is, masked. -/
def Obligations.RandomIsMasked : Prop :=
  ∀ (x : Reg) (nn rnd : Byte) (keys : Keys) (s : State),
    encode (.rnd x nn) = 0xC000 ||| (BitVec.ofNat 16 x.val <<< 8) ||| nn.setWidth 16 ∧
    ∃ t, exec (.rnd x nn) (beginCycle keys rnd s) = .next t ∧ t.getV x = rnd &&& nn ∧ t.pc = s.pc + 2 ∧
      Frame (fun e => e = .v x ∨ e = .pc) (beginCycle keys rnd s) t

/-- CLS (R200; D20, and that "clear" means 0 is the spec's G6): every pixel 0, DRAW 1, VF not written. -/
def Obligations.ClearBlanksScreen : Prop :=
  ∀ s : State, ∃ t, exec .cls s = .next t ∧ (∀ x y, t.fb.pixel x y = false) ∧ t.draw = true ∧ t.pc = s.pc + 2 ∧
    Frame (fun e => (∃ x y, e = .pixel x y) ∨ e = .draw ∨ e = .pc) s t

/-- DRW (R202 to R205; D18, D19): each pixel is toggled exactly when the sprite covers it, wrapping in both directions; VF is 1
exactly when some pixel went from 1 to 0; DRAW is 1. A row count above 0 that passes 0xFFF is Fatal(OutOfBounds, Data, 0x1000). -/
def Obligations.DrawTogglesCoveredPixels : Prop :=
  ∀ (x y : Reg) (n : Nat) (s : State), n < 16 →
    (n = 0 ∨ s.i.toNat + n - 1 ≤ 0xFFF → ∃ t, exec (.drw x y n) s = .next t ∧
      (∀ px py, t.fb.pixel px py = true ↔
        ¬ (s.fb.pixel px py = true ↔ covers s (s.getV x).toNat (s.getV y).toNat n px py)) ∧
      t.getV 0xF = (if ∃ px py, s.fb.pixel px py = true ∧ t.fb.pixel px py = false then 1 else 0) ∧
      t.draw = true ∧ t.pc = s.pc + 2 ∧
      Frame (fun e => (∃ px py, e = .pixel px py) ∨ e = .v 0xF ∨ e = .draw ∨ e = .pc) s t) ∧
    (0 < n → 0xFFF < s.i.toNat + n - 1 → ∃ t, exec (.drw x y n) s = .next t ∧ IsFatal .outOfBounds .data 0x1000 s t)

/-- Drawing the same sprite twice at the same place, its coordinates in registers other than VF, restores the framebuffer whatever it
was; over a blank one the second draw reports a collision exactly when the sprite has a 1 bit (R202). -/
def Obligations.DrawingTwiceRestoresScreen : Prop :=
  ∀ (x y : Reg) (n : Nat) (s t u : State), n < 16 → x ≠ 0xF → y ≠ 0xF →
    (n = 0 ∨ s.i.toNat + n - 1 ≤ 0xFFF) → exec (.drw x y n) s = .next t → exec (.drw x y n) t = .next u →
    u.fb = s.fb ∧
      (s.fb = Screen.blank → (u.getV 0xF = 1 ↔ ∃ r, r < n ∧ s.mem.read (s.i.toNat + r) ≠ 0))

/-! ### Timers and keys -/

/-- LD Vx, DT, LD DT, Vx and LD ST, Vx (R210, R211, R212). After the last, SOUND is 1 exactly when the byte is not 0, and it stays 1
until as many ticks as the byte says have counted ST down. -/
def Obligations.TimerAccessMovesBytes : Prop :=
  ∀ (x : Reg) (s : State),
    encode (.ldVxDt x) = 0xF007 ||| (BitVec.ofNat 16 x.val <<< 8) ∧
    encode (.ldDtVx x) = 0xF015 ||| (BitVec.ofNat 16 x.val <<< 8) ∧
    encode (.ldStVx x) = 0xF018 ||| (BitVec.ofNat 16 x.val <<< 8) ∧
    (∃ t, exec (.ldVxDt x) s = .next t ∧ t.getV x = s.dt ∧ t.pc = s.pc + 2 ∧ Frame (fun e => e = .v x ∨ e = .pc) s t) ∧
    (∃ t, exec (.ldDtVx x) s = .next t ∧ t.dt = s.getV x ∧ t.pc = s.pc + 2 ∧ Frame (fun e => e = .dt ∨ e = .pc) s t) ∧
    (∃ t, exec (.ldStVx x) s = .next t ∧ t.st = s.getV x ∧ (sound t = true ↔ s.getV x ≠ 0) ∧ t.pc = s.pc + 2 ∧
      (∀ k : Nat, sound (timerTick^[k] t) = true ↔ k < (s.getV x).toNat) ∧ Frame (fun e => e = .st ∨ e = .pc) s t)

/-- LD Vx, K (R213; D22, D23): with no key-down edge nothing changes, PC included; with one, V[x] is the lowest-numbered key that
has an edge, and PC moves on. -/
def Obligations.KeyWaitTakesLowestEdge : Prop :=
  ∀ (x : Reg) (s : State),
    (¬ someEdge s → ∃ t, exec (.ldVxK x) s = .next t ∧ Frame (fun _ => False) s t) ∧
    (someEdge s → ∃ t, exec (.ldVxK x) s = .next t ∧
      (∃ k, k < 16 ∧ s.keys.getLsbD k = true ∧ s.keyPrev.getLsbD k = false ∧ (t.getV x).toNat = k ∧
        ∀ j, j < k → ¬ (s.keys.getLsbD j = true ∧ s.keyPrev.getLsbD j = false)) ∧
      t.pc = s.pc + 2 ∧ Frame (fun e => e = .v x ∨ e = .pc) s t)

/-- A key held since the cycle before does not end the key-wait: a step that runs FX0A with no newly pressed key leaves PC and
every register as they were, whatever is held, and records the snapshot (R213; D22, D23). -/
def Obligations.HeldKeyDoesNotEndKeyWait : Prop :=
  ∀ (s : State) (keys : Keys) (rnd : Byte) (x : Reg),
    nextEvent s = .cycle keys rnd → Running s → s.pc.toNat + 1 ≤ 0xFFF →
    decode (s.mem.read s.pc.toNat ++ s.mem.read (s.pc.toNat + 1)) = .instr (.ldVxK x) →
    (∀ k, keys.getLsbD k = true → s.keyPrev.getLsbD k = true) →
    ∃ t, step s = .next t ∧ t.keyPrev = keys ∧ t.result = .ok ∧
      Frame (fun e => e = .keyPrev ∨ e = .result ∨ e = .keys ∨ e = .rnd ∨ e = .loadable ∨ e = .script ∨ e = .clock) s t

/-! ### Rules of the whole machine -/

/-- VF is written by 8XY4, 8XY5, 8XY6, 8XY7, 8XYE and DXYN, and otherwise only where an instruction names it as its destination
(R22; D11). -/
def Obligations.FlagIsWrittenBySixOnly : Prop :=
  ∀ (i : Instr) (s t : State), exec i s = .next t → t.getV 0xF ≠ s.getV 0xF →
    (∃ x y, i = .addReg x y ∨ i = .subReg x y ∨ i = .shr x y ∨ i = .subnReg x y ∨ i = .shl x y) ∨ (∃ x y n, i = .drw x y n) ∨
    (∃ nn, i = .ldImm 0xF nn ∨ i = .addImm 0xF nn ∨ i = .rnd 0xF nn) ∨
    (∃ y, i = .ldReg 0xF y ∨ i = .orReg 0xF y ∨ i = .andReg 0xF y ∨ i = .xorReg 0xF y) ∨
    i = .ldVxDt 0xF ∨ i = .ldVxK 0xF ∨ i = .loadRegs 0xF

/-- I is written by ANNN, FX1E and FX29 only (R25), and the stack and its pointer by CALL and RET only (R27, R28). -/
def Obligations.IndexAndStackHaveFewWriters : Prop :=
  ∀ (i : Instr) (s t : State), exec i s = .next t →
    (t.i ≠ s.i → (∃ nnn, i = .ldI nnn) ∨ (∃ x, i = .addI x ∨ i = .ldF x)) ∧
    (t.sp ≠ s.sp → (∃ nnn, i = .call nnn) ∨ i = .ret) ∧ (t.stack ≠ s.stack → ∃ nnn, i = .call nnn)

/-- Memory is written by FX33 and FX55 only (R60), DT by FX15 and ST by FX18 only (R29, R30), the framebuffer by DXYN and 00E0
only (R33), DRAW by the same two and only to 1 (R35), and no instruction writes KEY_PREV, the inputs or the model's record of
events. -/
def Obligations.MemoryTimersScreenHaveFewWriters : Prop :=
  ∀ (i : Instr) (s t : State), exec i s = .next t →
    (t.mem ≠ s.mem → ∃ x, i = .ldB x ∨ i = .storeRegs x) ∧ (t.dt ≠ s.dt → ∃ x, i = .ldDtVx x) ∧
    (t.st ≠ s.st → ∃ x, i = .ldStVx x) ∧
    (t.fb ≠ s.fb ∨ t.draw ≠ s.draw → (i = .cls ∨ ∃ x y n, i = .drw x y n) ∧ t.draw = true) ∧
    t.keyPrev = s.keyPrev ∧ t.keys = s.keys ∧ t.rnd = s.rnd ∧ t.loadable = s.loadable ∧ t.script = s.script ∧ t.clock = s.clock

/-- An instruction that meets none of R230's fatal conditions completes, from every state, and stays running; one that meets its
condition halts (R230, R240). No instruction stops the model. -/
def Obligations.FatalExactlyWhenChecksFail : Prop :=
  ∀ (i : Instr) (s : State), Running s →
    ∃ t, exec i s = .next t ∧ (t.halt = true ↔ raisesFatal i s)

/-- Fatal errors are precise (R237; D15): an instruction that halts the unit changes nothing but HALT, ERR and the cycle's
result, and ERR names its own address. -/
def Obligations.FatalErrorsArePrecise : Prop :=
  ∀ (i : Instr) (s t : State), Running s → exec i s = .next t → t.halt = true →
    t.err.addr = s.pc ∧ t.err.kind.isFatal = true ∧ t.result = .fatal t.err ∧
      Frame (fun e => e = .halt ∨ e = .err ∨ e = .result) s t

/-- Where PC goes (R124): the target of a transfer; 4 or 2 on after a skip; unchanged by a key-wait without an edge and by a
Fatal; 2 on after everything else. -/
def Obligations.PcFollowsItsPolicy : Prop :=
  ∀ (i : Instr) (s t : State), Running s → exec i s = .next t →
    (t.halt = true → t.pc = s.pc) ∧
    (t.halt = false →
      (∀ a, transferTarget i s = some a → t.pc.toNat = a) ∧
      (∀ c, skipCondition i s = some c → t.pc = s.pc + (if c then 4 else 2)) ∧
      ((∃ x, i = .ldVxK x) ∧ ¬ someEdge s → t.pc = s.pc) ∧
      (transferTarget i s = none → skipCondition i s = none → ¬ ((∃ x, i = .ldVxK x) ∧ ¬ someEdge s) → t.pc = s.pc + 2))

/-- The state after reset meets the invariant. -/
def Obligations.ResetMeetsInvariant : Prop := StateInv State.reset

/-- Every step keeps the invariant (R49, with R24, R26, R27 and R37), whichever event it performs and whatever its inputs: memory
keeps its canonical form, I stays within 0xFFF, SP within 16, the return addresses within 0x1000, PC within 0x10FE, and HALT and
ERR agree. -/
def Obligations.EveryStepKeepsInvariant : Prop := ∀ s t : State, StateInv s → step s = .next t → StateInv t
end

