-- ==== Sys2Proof/Laws/Decode.lean ====
section
/-! SUPPORT. What each format's fields read from the word it encodes, and which bits it fixes (30_encoding.md R91, R92). -/

namespace Sys2Proof

/-- A register index as a 4-bit field, widened. -/
theorem ofNat_reg (x : Reg) : BitVec.ofNat 16 x.val = (BitVec.ofFin (w := 4) x).setWidth 16 := by revert x; decide

/-- A row count below 16 as a 4-bit field, widened. -/
theorem ofNat_count {n : Nat} (h : n < 16) : BitVec.ofNat 16 n = (BitVec.ofFin (w := 4) ⟨n, h⟩).setWidth 16 :=
  ofNat_reg ⟨n, h⟩

/-- A base pattern and fields that keep out of a mask's bits match that mask's row. -/
theorem and_mask_of_fields {base fields mask : Word} (hb : base &&& mask = base) (hf : fields &&& mask = 0) :
    (base ||| fields) &&& mask = base := by
  rw [BitVec.and_comm, BitVec.and_or_distrib_left, BitVec.and_comm mask base, BitVec.and_comm mask fields, hb, hf]
  simp

/-- Reading a field that the base leaves 0 reads what was put there. -/
theorem extract_of_base_zero {base fields : Word} {lo len : Nat} (hb : base.extractLsb' lo len = 0) :
    (base ||| fields).extractLsb' lo len = fields.extractLsb' lo len := by
  refine BitVec.eq_of_getLsbD_eq fun k hk => ?_
  have h := congrArg (·.getLsbD k) hb
  simp only [BitVec.getLsbD_extractLsb', hk, decide_true, Bool.true_and] at h
  simp [hk, h]

/-- The `x` field, as a word. -/
def wordX (x : Reg) : Word := BitVec.ofNat 16 x.val <<< 8

/-- The `y` field, as a word. -/
def wordY (y : Reg) : Word := BitVec.ofNat 16 y.val <<< 4

/-! ### The fields read back -/

theorem nnn_field (nnn : Addr12) : (nnn.setWidth 16).extractLsb' 0 12 = nnn := by
  refine BitVec.eq_of_getLsbD_eq fun k hk => ?_
  have : k < 16 := by omega
  simp [hk, this]

theorem xnn_field_nn (x : Reg) (nn : Byte) : (wordX x ||| nn.setWidth 16).extractLsb' 0 8 = nn := by
  refine BitVec.eq_of_getLsbD_eq fun k hk => ?_
  have : k < 16 := by omega
  simp [wordX, hk, this]

theorem word_x_low (x : Reg) : (wordX x).extractLsb' 8 4 = BitVec.ofFin (w := 4) x := by revert x; decide

theorem word_y_low (y : Reg) : (wordY y).extractLsb' 4 4 = BitVec.ofFin (w := 4) y := by revert y; decide

theorem extract_or (a b : Word) (lo len : Nat) :
    (a ||| b).extractLsb' lo len = a.extractLsb' lo len ||| b.extractLsb' lo len := by
  refine BitVec.eq_of_getLsbD_eq fun k hk => ?_
  simp [hk]

theorem byte_above (nn : Byte) : (nn.setWidth 16).extractLsb' 8 4 = 0 := by
  refine BitVec.eq_of_getLsbD_eq fun k hk => ?_
  simp

theorem word_y_above (y : Reg) : (wordY y).extractLsb' 8 4 = 0 := by revert y; decide

theorem word_x_below (x : Reg) : (wordX x).extractLsb' 4 4 = 0 := by revert x; decide

/-! ### The fields keep out of the masks -/

theorem nnn_mask (nnn : Addr12) : nnn.setWidth 16 &&& (0xF000 : Word) = 0 := by
  refine BitVec.eq_of_getLsbD_eq fun k hk => ?_
  by_cases hk : k < 12
  · interval_cases k <;> simp
  · simp [BitVec.getLsbD_of_ge nnn k (by omega)]

theorem xnn_mask (x : Reg) (nn : Byte) : (wordX x ||| nn.setWidth 16) &&& (0xF000 : Word) = 0 := by
  have h : nn.setWidth 16 &&& (0xF000 : Word) = 0 := by
    refine BitVec.eq_of_getLsbD_eq fun k hk => ?_
    by_cases hk : k < 8
    · interval_cases k <;> simp
    · simp [BitVec.getLsbD_of_ge nn k (by omega)]
  have hx : wordX x &&& (0xF000 : Word) = 0 := by revert x; decide
  rw [BitVec.and_comm, BitVec.and_or_distrib_left, BitVec.and_comm (0xF000 : Word) (wordX x),
    BitVec.and_comm (0xF000 : Word), h, hx]
  rfl

theorem xy_mask (x y : Reg) : (wordX x ||| wordY y) &&& (0xF00F : Word) = 0 := by revert x y; decide

theorem x_mask (x : Reg) : wordX x &&& (0xF0FF : Word) = 0 := by revert x; decide

/-! ### What each format encodes is in its row and builds its instruction back -/

theorem encodeNNN_hits {base : Word} (hb : base &&& 0xF000 = base) (nnn : Addr12) :
    encodeNNN base nnn &&& 0xF000 = base := and_mask_of_fields hb (nnn_mask nnn)

theorem encodeXNN_hits {base : Word} (hb : base &&& 0xF000 = base) (x : Reg) (nn : Byte) :
    encodeXNN base x nn &&& 0xF000 = base := by
  rw [encodeXNN, BitVec.or_assoc]
  exact and_mask_of_fields hb (xnn_mask x nn)

theorem encodeXY_hits {base : Word} (hb : base &&& 0xF00F = base) (x y : Reg) :
    encodeXY base x y &&& 0xF00F = base := by
  rw [encodeXY, BitVec.or_assoc]
  exact and_mask_of_fields hb (xy_mask x y)

theorem encodeX_hits {base : Word} (hb : base &&& 0xF0FF = base) (x : Reg) : encodeX base x &&& 0xF0FF = base :=
  and_mask_of_fields hb (x_mask x)

theorem fieldNNN_encodeNNN {base : Word} (hb : base.extractLsb' 0 12 = 0) (nnn : Addr12) :
    fieldNNN (encodeNNN base nnn) = nnn := (extract_of_base_zero hb).trans (nnn_field nnn)

theorem fieldX_encodeXNN {base : Word} (hb : base.extractLsb' 8 4 = 0) (x : Reg) (nn : Byte) :
    fieldX (encodeXNN base x nn) = x := by
  have h : (encodeXNN base x nn).extractLsb' 8 4 = BitVec.ofFin (w := 4) x := by
    rw [encodeXNN, BitVec.or_assoc, extract_of_base_zero hb, ← wordX, extract_or, word_x_low, byte_above]
    simp
  rw [fieldX, h]

theorem fieldNN_encodeXNN {base : Word} (hb : base.extractLsb' 0 8 = 0) (x : Reg) (nn : Byte) :
    fieldNN (encodeXNN base x nn) = nn := by
  rw [fieldNN, encodeXNN, BitVec.or_assoc, extract_of_base_zero hb]
  exact xnn_field_nn x nn

theorem fieldX_encodeXY {base : Word} (hb : base.extractLsb' 8 4 = 0) (x y : Reg) : fieldX (encodeXY base x y) = x := by
  have h : (encodeXY base x y).extractLsb' 8 4 = BitVec.ofFin (w := 4) x := by
    rw [encodeXY, BitVec.or_assoc, extract_of_base_zero hb, ← wordX, ← wordY, extract_or, word_x_low, word_y_above]
    simp
  rw [fieldX, h]

theorem fieldY_encodeXY {base : Word} (hb : base.extractLsb' 4 4 = 0) (x y : Reg) : fieldY (encodeXY base x y) = y := by
  have h : (encodeXY base x y).extractLsb' 4 4 = BitVec.ofFin (w := 4) y := by
    rw [encodeXY, BitVec.or_assoc, extract_of_base_zero hb, ← wordX, ← wordY, extract_or, word_x_below, word_y_low]
    simp
  rw [fieldY, h]

theorem fieldX_encodeX {base : Word} (hb : base.extractLsb' 8 4 = 0) (x : Reg) : fieldX (encodeX base x) = x := by
  have h : (encodeX base x).extractLsb' 8 4 = BitVec.ofFin (w := 4) x := (extract_of_base_zero hb).trans (word_x_low x)
  rw [fieldX, h]

/-- DXYN's row and its three fields. -/
theorem encodeXYN_hits (x y : Reg) {n : Nat} (hn : n < 16) : encodeXYN 0xD000 x y n &&& 0xF000 = 0xD000 := by
  have h : ∀ x y n : Reg, encodeXYN 0xD000 x y n.val &&& 0xF000 = 0xD000 := by
    intro x y n
    have hf : ((wordX x ||| wordY y) ||| BitVec.ofNat 16 n.val) &&& (0xF000 : Word) = 0 := by
      rw [BitVec.and_comm, BitVec.and_or_distrib_left, BitVec.and_comm (0xF000 : Word) (wordX x ||| wordY y),
        BitVec.and_comm (0xF000 : Word)]
      have h1 : (wordX x ||| wordY y) &&& (0xF000 : Word) = 0 := by revert x y; decide
      have h2 : BitVec.ofNat 16 n.val &&& (0xF000 : Word) = 0 := by revert n; decide
      rw [h1, h2]
      rfl
    have := and_mask_of_fields (base := 0xD000) (mask := 0xF000) (by decide) hf
    rwa [← BitVec.or_assoc, ← BitVec.or_assoc] at this
  exact h x y ⟨n, hn⟩

theorem fields_encodeXYN (x y : Reg) {n : Nat} (hn : n < 16) :
    fieldX (encodeXYN 0xD000 x y n) = x ∧ fieldY (encodeXYN 0xD000 x y n) = y ∧ fieldN (encodeXYN 0xD000 x y n) = n := by
  have e : encodeXYN 0xD000 x y n = encodeXY 0xD000 x y ||| BitVec.ofNat 16 n := rfl
  have h8 : ∀ m : Reg, (BitVec.ofNat 16 m.val).extractLsb' 8 4 = 0 := by decide
  have h4 : ∀ m : Reg, (BitVec.ofNat 16 m.val).extractLsb' 4 4 = 0 := by decide
  have h0 : ∀ m : Reg, ((BitVec.ofNat 16 m.val).extractLsb' 0 4).toNat = m.val := by decide
  have hz : ∀ x y : Reg, (encodeXY 0xD000 x y).extractLsb' 0 4 = 0 := by decide
  refine ⟨?_, ?_, ?_⟩
  · rw [fieldX, e, extract_or, h8 ⟨n, hn⟩]
    simpa [fieldX] using fieldX_encodeXY (base := 0xD000) (by decide) x y
  · rw [fieldY, e, extract_or, h4 ⟨n, hn⟩]
    simpa [fieldY] using fieldY_encodeXY (base := 0xD000) (by decide) x y
  · rw [fieldN, e, extract_of_base_zero (hz x y)]
    exact h0 ⟨n, hn⟩

end Sys2Proof
end

