-- ==== Sys2Proof/Laws/Memory.lean ====
section
/-! SUPPORT. The laws of `MEM`: what a write changes, what it leaves alone, and that every operation keeps the canonical
form (log 6). -/

namespace Sys2Proof.Machine

theorem Memory.wf_nil : Memory.wf [] = true := rfl

theorem Memory.wf_cons {a : Nat} {v : Byte} {rest : Memory} :
    Memory.wf ((a, v) :: rest) = true ↔
      a < 0x1000 ∧ v ≠ Memory.unlisted a ∧ (∀ c ∈ rest, a < c.1) ∧ Memory.wf rest = true := by
  simp [Memory.wf, and_assoc]

/-- An address below every listed one reads as the reset contents. -/
theorem Memory.read_below {m : Memory} {a : Nat} (h : ∀ c ∈ m, a < c.1) : m.read a = Memory.unlisted a := by
  induction m with
  | nil => rfl
  | cons c rest ih =>
    obtain ⟨b, w⟩ := c
    have hb : a < b := h (b, w) (by simp)
    have : a ≠ b := by omega
    simp only [Memory.read, if_neg this]
    exact ih fun c hc => h c (by simp [hc])

/-- A write leaves every other address alone. -/
theorem Memory.read_write_ne (m : Memory) {a c : Nat} (v : Byte) (h : c ≠ a) : (m.write a v).read c = m.read c := by
  induction m with
  | nil => by_cases hv : v = Memory.unlisted a <;> simp [Memory.write, Memory.read, hv, h]
  | cons cell rest ih =>
    obtain ⟨b, w⟩ := cell
    unfold Memory.write
    split
    · split <;> simp [Memory.read, h]
    · split
      · subst_vars
        split <;> simp [Memory.read, h]
      · simp [Memory.read, ih]

/-- A read after a write to the same address gives the value written. -/
theorem Memory.read_write_self {m : Memory} (hm : m.wf = true) (a : Nat) (v : Byte) : (m.write a v).read a = v := by
  induction m with
  | nil => by_cases hv : v = Memory.unlisted a <;> simp [Memory.write, Memory.read, hv]
  | cons cell rest ih =>
    obtain ⟨b, w⟩ := cell
    obtain ⟨-, -, hlt, hrest⟩ := Memory.wf_cons.mp hm
    unfold Memory.write
    split
    · rename_i hab
      split
      · rename_i hv
        rw [hv]
        refine Memory.read_below fun c hc => ?_
        rcases List.mem_cons.mp hc with rfl | hc
        · exact hab
        · exact lt_trans hab (hlt c hc)
      · simp [Memory.read]
    · split
      · subst_vars
        split
        · rename_i hv
          rw [hv]
          exact Memory.read_below hlt
        · simp [Memory.read]
      · rename_i hne
        simp [Memory.read, hne, ih hrest]

/-- The addresses a write lists are the old ones and the one written. -/
theorem Memory.mem_write {m : Memory} {a : Nat} {v : Byte} {c : Host.Cell} (h : c ∈ m.write a v) : c ∈ m ∨ c = (a, v) := by
  induction m with
  | nil =>
    by_cases hv : v = Memory.unlisted a <;> simp [Memory.write, hv] at h
    exact .inr h
  | cons cell rest ih =>
    obtain ⟨b, w⟩ := cell
    unfold Memory.write at h
    split at h
    · split at h
      · exact .inl h
      · rcases List.mem_cons.mp h with h | h
        · exact .inr h
        · exact .inl h
    · split at h
      · split at h
        · exact .inl (List.mem_cons_of_mem _ h)
        · rcases List.mem_cons.mp h with h | h
          · exact .inr h
          · exact .inl (List.mem_cons_of_mem _ h)
      · rcases List.mem_cons.mp h with h | h
        · exact .inl (by rw [h]; simp)
        · exact (ih h).imp (List.mem_cons_of_mem _) id

/-- A write inside `MEM` keeps the canonical form. -/
theorem Memory.wf_write {m : Memory} (hm : m.wf = true) {a : Nat} (ha : a < 0x1000) (v : Byte) :
    (m.write a v).wf = true := by
  induction m with
  | nil =>
    by_cases hv : v = Memory.unlisted a
    · simp [Memory.write, hv, Memory.wf]
    · simp only [Memory.write, if_neg hv]
      exact Memory.wf_cons.mpr ⟨ha, hv, by simp, rfl⟩
  | cons cell rest ih =>
    obtain ⟨b, w⟩ := cell
    obtain ⟨hb, hw, hlt, hrest⟩ := Memory.wf_cons.mp hm
    unfold Memory.write
    split
    · rename_i hab
      split
      · exact hm
      · rename_i hv
        refine Memory.wf_cons.mpr ⟨ha, hv, fun c hc => ?_, hm⟩
        rcases List.mem_cons.mp hc with rfl | hc
        · exact hab
        · exact lt_trans hab (hlt c hc)
    · split
      · subst_vars
        split
        · exact hrest
        · rename_i hv
          exact Memory.wf_cons.mpr ⟨ha, hv, hlt, hrest⟩
      · rename_i h1 h2
        refine Memory.wf_cons.mpr ⟨hb, hw, fun c hc => ?_, ih hrest⟩
        rcases Memory.mem_write hc with hc | rfl
        · exact hlt c hc
        · show b < a
          omega

/-- Storing a range inside `MEM` keeps the canonical form. -/
theorem Memory.wf_writeRange {m : Memory} (hm : m.wf = true) (bytes : List Byte) {a : Nat}
    (ha : bytes.length = 0 ∨ a + bytes.length ≤ 0x1000) : (m.writeRange a bytes).wf = true := by
  induction bytes generalizing m a with
  | nil => exact hm
  | cons b bs ih =>
    simp only [List.length_cons] at ha
    exact ih (Memory.wf_write hm (by omega) b) (by omega)

/-- Storing a range leaves every address outside it alone. -/
theorem Memory.read_writeRange_outside (m : Memory) (bytes : List Byte) {a c : Nat}
    (h : c < a ∨ a + bytes.length ≤ c) : (m.writeRange a bytes).read c = m.read c := by
  induction bytes generalizing m a with
  | nil => rfl
  | cons b bs ih =>
    simp only [List.length_cons] at h
    exact (ih (m.write a b) (by omega)).trans (Memory.read_write_ne m b (by omega))

/-- The byte a range stores at `a + k` is its `k`-th. -/
theorem Memory.read_writeRange_inside {m : Memory} (hm : m.wf = true) (bytes : List Byte) {a : Nat}
    (ha : a + bytes.length ≤ 0x1000) (k : Nat) (hk : k < bytes.length) :
    (m.writeRange a bytes).read (a + k) = bytes[k] := by
  induction bytes generalizing m a k with
  | nil => simp at hk
  | cons b bs ih =>
    simp only [List.length_cons] at ha hk
    have hw := Memory.wf_write hm (show a < 0x1000 by omega) b
    cases k with
    | zero =>
      exact (Memory.read_writeRange_outside (m.write a b) bs (by omega)).trans (Memory.read_write_self hm a b)
    | succ k =>
      have := ih hw (a := a + 1) (by omega) k (by omega)
      simpa [Memory.writeRange, Nat.add_assoc, Nat.add_comm 1 k] using this

/-- The checked primitives keep the canonical form. -/
theorem wf_memWrite {m m' : Memory} {a : Nat} {v : Byte} (hm : m.wf = true) (h : memWrite m a v = some m') :
    m'.wf = true := by
  unfold memWrite at h
  split at h
  · cases h
  · cases h
    exact Memory.wf_write hm (by omega) v

/-- The fetch: both bytes, the lower address high, when the second one exists; else nothing (R61, R122). -/
theorem memReadWord_eq (m : Memory) (a : Nat) :
    memReadWord m a = if a + 1 ≤ 0xFFF then some (opcodeOfBytes (m.read a) (m.read (a + 1))) else none := by
  unfold memReadWord memRead
  by_cases h : a + 1 ≤ 0xFFF
  · have h1 : ¬ a > 0xFFF := by omega
    have h2 : ¬ a + 1 > 0xFFF := by omega
    rw [if_pos h, if_neg h1, if_neg h2]
  · have h2 : a + 1 > 0xFFF := by omega
    rw [if_neg h, if_pos h2]
    split <;> simp_all

theorem inMemory_iff (a n : Nat) : inMemory a n = true ↔ n = 0 ∨ a + n ≤ 0x1000 := by
  simp [inMemory]

@[simp] theorem readRange_length (m : Memory) (a n : Nat) : (m.readRange a n).length = n := by
  simp [Memory.readRange]

theorem readRange_getElem (m : Memory) (a n k : Nat) (h : k < (m.readRange a n).length) :
    (m.readRange a n)[k] = m.read (a + k) := by
  simp [Memory.readRange]

end Sys2Proof.Machine
end

