-- ==== Sys2Proof/Laws/State.lean ====
section
/-! SUPPORT. One lemma for each field and each update of State, so that no later proof unfolds a record update. -/

namespace Sys2Proof.Machine

/-! ### State.setV -/

@[simp] theorem State.setV_v (s : State) (r : Reg) (b : Byte) : (s.setV r b).v = s.v.set r b := rfl
@[simp] theorem State.setV_i (s : State) (r : Reg) (b : Byte) : (s.setV r b).i = s.i := rfl
@[simp] theorem State.setV_pc (s : State) (r : Reg) (b : Byte) : (s.setV r b).pc = s.pc := rfl
@[simp] theorem State.setV_sp (s : State) (r : Reg) (b : Byte) : (s.setV r b).sp = s.sp := rfl
@[simp] theorem State.setV_stack (s : State) (r : Reg) (b : Byte) : (s.setV r b).stack = s.stack := rfl
@[simp] theorem State.setV_dt (s : State) (r : Reg) (b : Byte) : (s.setV r b).dt = s.dt := rfl
@[simp] theorem State.setV_st (s : State) (r : Reg) (b : Byte) : (s.setV r b).st = s.st := rfl
@[simp] theorem State.setV_mem (s : State) (r : Reg) (b : Byte) : (s.setV r b).mem = s.mem := rfl
@[simp] theorem State.setV_fb (s : State) (r : Reg) (b : Byte) : (s.setV r b).fb = s.fb := rfl
@[simp] theorem State.setV_draw (s : State) (r : Reg) (b : Byte) : (s.setV r b).draw = s.draw := rfl
@[simp] theorem State.setV_keyPrev (s : State) (r : Reg) (b : Byte) : (s.setV r b).keyPrev = s.keyPrev := rfl
@[simp] theorem State.setV_halt (s : State) (r : Reg) (b : Byte) : (s.setV r b).halt = s.halt := rfl
@[simp] theorem State.setV_err (s : State) (r : Reg) (b : Byte) : (s.setV r b).err = s.err := rfl
@[simp] theorem State.setV_keys (s : State) (r : Reg) (b : Byte) : (s.setV r b).keys = s.keys := rfl
@[simp] theorem State.setV_rnd (s : State) (r : Reg) (b : Byte) : (s.setV r b).rnd = s.rnd := rfl
@[simp] theorem State.setV_result (s : State) (r : Reg) (b : Byte) : (s.setV r b).result = s.result := rfl
@[simp] theorem State.setV_loadable (s : State) (r : Reg) (b : Byte) : (s.setV r b).loadable = s.loadable := rfl
@[simp] theorem State.setV_script (s : State) (r : Reg) (b : Byte) : (s.setV r b).script = s.script := rfl
@[simp] theorem State.setV_clock (s : State) (r : Reg) (b : Byte) : (s.setV r b).clock = s.clock := rfl

/-! ### State.setRegs -/

@[simp] theorem State.setRegs_v (s : State) (v : Vector Byte 16) : (s.setRegs v).v = v := rfl
@[simp] theorem State.setRegs_i (s : State) (v : Vector Byte 16) : (s.setRegs v).i = s.i := rfl
@[simp] theorem State.setRegs_pc (s : State) (v : Vector Byte 16) : (s.setRegs v).pc = s.pc := rfl
@[simp] theorem State.setRegs_sp (s : State) (v : Vector Byte 16) : (s.setRegs v).sp = s.sp := rfl
@[simp] theorem State.setRegs_stack (s : State) (v : Vector Byte 16) : (s.setRegs v).stack = s.stack := rfl
@[simp] theorem State.setRegs_dt (s : State) (v : Vector Byte 16) : (s.setRegs v).dt = s.dt := rfl
@[simp] theorem State.setRegs_st (s : State) (v : Vector Byte 16) : (s.setRegs v).st = s.st := rfl
@[simp] theorem State.setRegs_mem (s : State) (v : Vector Byte 16) : (s.setRegs v).mem = s.mem := rfl
@[simp] theorem State.setRegs_fb (s : State) (v : Vector Byte 16) : (s.setRegs v).fb = s.fb := rfl
@[simp] theorem State.setRegs_draw (s : State) (v : Vector Byte 16) : (s.setRegs v).draw = s.draw := rfl
@[simp] theorem State.setRegs_keyPrev (s : State) (v : Vector Byte 16) : (s.setRegs v).keyPrev = s.keyPrev := rfl
@[simp] theorem State.setRegs_halt (s : State) (v : Vector Byte 16) : (s.setRegs v).halt = s.halt := rfl
@[simp] theorem State.setRegs_err (s : State) (v : Vector Byte 16) : (s.setRegs v).err = s.err := rfl
@[simp] theorem State.setRegs_keys (s : State) (v : Vector Byte 16) : (s.setRegs v).keys = s.keys := rfl
@[simp] theorem State.setRegs_rnd (s : State) (v : Vector Byte 16) : (s.setRegs v).rnd = s.rnd := rfl
@[simp] theorem State.setRegs_result (s : State) (v : Vector Byte 16) : (s.setRegs v).result = s.result := rfl
@[simp] theorem State.setRegs_loadable (s : State) (v : Vector Byte 16) : (s.setRegs v).loadable = s.loadable := rfl
@[simp] theorem State.setRegs_script (s : State) (v : Vector Byte 16) : (s.setRegs v).script = s.script := rfl
@[simp] theorem State.setRegs_clock (s : State) (v : Vector Byte 16) : (s.setRegs v).clock = s.clock := rfl

/-! ### State.setDt -/

@[simp] theorem State.setDt_v (s : State) (b : Byte) : (s.setDt b).v = s.v := rfl
@[simp] theorem State.setDt_i (s : State) (b : Byte) : (s.setDt b).i = s.i := rfl
@[simp] theorem State.setDt_pc (s : State) (b : Byte) : (s.setDt b).pc = s.pc := rfl
@[simp] theorem State.setDt_sp (s : State) (b : Byte) : (s.setDt b).sp = s.sp := rfl
@[simp] theorem State.setDt_stack (s : State) (b : Byte) : (s.setDt b).stack = s.stack := rfl
@[simp] theorem State.setDt_dt (s : State) (b : Byte) : (s.setDt b).dt = b := rfl
@[simp] theorem State.setDt_st (s : State) (b : Byte) : (s.setDt b).st = s.st := rfl
@[simp] theorem State.setDt_mem (s : State) (b : Byte) : (s.setDt b).mem = s.mem := rfl
@[simp] theorem State.setDt_fb (s : State) (b : Byte) : (s.setDt b).fb = s.fb := rfl
@[simp] theorem State.setDt_draw (s : State) (b : Byte) : (s.setDt b).draw = s.draw := rfl
@[simp] theorem State.setDt_keyPrev (s : State) (b : Byte) : (s.setDt b).keyPrev = s.keyPrev := rfl
@[simp] theorem State.setDt_halt (s : State) (b : Byte) : (s.setDt b).halt = s.halt := rfl
@[simp] theorem State.setDt_err (s : State) (b : Byte) : (s.setDt b).err = s.err := rfl
@[simp] theorem State.setDt_keys (s : State) (b : Byte) : (s.setDt b).keys = s.keys := rfl
@[simp] theorem State.setDt_rnd (s : State) (b : Byte) : (s.setDt b).rnd = s.rnd := rfl
@[simp] theorem State.setDt_result (s : State) (b : Byte) : (s.setDt b).result = s.result := rfl
@[simp] theorem State.setDt_loadable (s : State) (b : Byte) : (s.setDt b).loadable = s.loadable := rfl
@[simp] theorem State.setDt_script (s : State) (b : Byte) : (s.setDt b).script = s.script := rfl
@[simp] theorem State.setDt_clock (s : State) (b : Byte) : (s.setDt b).clock = s.clock := rfl

/-! ### State.setSt -/

@[simp] theorem State.setSt_v (s : State) (b : Byte) : (s.setSt b).v = s.v := rfl
@[simp] theorem State.setSt_i (s : State) (b : Byte) : (s.setSt b).i = s.i := rfl
@[simp] theorem State.setSt_pc (s : State) (b : Byte) : (s.setSt b).pc = s.pc := rfl
@[simp] theorem State.setSt_sp (s : State) (b : Byte) : (s.setSt b).sp = s.sp := rfl
@[simp] theorem State.setSt_stack (s : State) (b : Byte) : (s.setSt b).stack = s.stack := rfl
@[simp] theorem State.setSt_dt (s : State) (b : Byte) : (s.setSt b).dt = s.dt := rfl
@[simp] theorem State.setSt_st (s : State) (b : Byte) : (s.setSt b).st = b := rfl
@[simp] theorem State.setSt_mem (s : State) (b : Byte) : (s.setSt b).mem = s.mem := rfl
@[simp] theorem State.setSt_fb (s : State) (b : Byte) : (s.setSt b).fb = s.fb := rfl
@[simp] theorem State.setSt_draw (s : State) (b : Byte) : (s.setSt b).draw = s.draw := rfl
@[simp] theorem State.setSt_keyPrev (s : State) (b : Byte) : (s.setSt b).keyPrev = s.keyPrev := rfl
@[simp] theorem State.setSt_halt (s : State) (b : Byte) : (s.setSt b).halt = s.halt := rfl
@[simp] theorem State.setSt_err (s : State) (b : Byte) : (s.setSt b).err = s.err := rfl
@[simp] theorem State.setSt_keys (s : State) (b : Byte) : (s.setSt b).keys = s.keys := rfl
@[simp] theorem State.setSt_rnd (s : State) (b : Byte) : (s.setSt b).rnd = s.rnd := rfl
@[simp] theorem State.setSt_result (s : State) (b : Byte) : (s.setSt b).result = s.result := rfl
@[simp] theorem State.setSt_loadable (s : State) (b : Byte) : (s.setSt b).loadable = s.loadable := rfl
@[simp] theorem State.setSt_script (s : State) (b : Byte) : (s.setSt b).script = s.script := rfl
@[simp] theorem State.setSt_clock (s : State) (b : Byte) : (s.setSt b).clock = s.clock := rfl

/-! ### State.setScreen -/

@[simp] theorem State.setScreen_v (s : State) (fb : Screen) : (s.setScreen fb).v = s.v := rfl
@[simp] theorem State.setScreen_i (s : State) (fb : Screen) : (s.setScreen fb).i = s.i := rfl
@[simp] theorem State.setScreen_pc (s : State) (fb : Screen) : (s.setScreen fb).pc = s.pc := rfl
@[simp] theorem State.setScreen_sp (s : State) (fb : Screen) : (s.setScreen fb).sp = s.sp := rfl
@[simp] theorem State.setScreen_stack (s : State) (fb : Screen) : (s.setScreen fb).stack = s.stack := rfl
@[simp] theorem State.setScreen_dt (s : State) (fb : Screen) : (s.setScreen fb).dt = s.dt := rfl
@[simp] theorem State.setScreen_st (s : State) (fb : Screen) : (s.setScreen fb).st = s.st := rfl
@[simp] theorem State.setScreen_mem (s : State) (fb : Screen) : (s.setScreen fb).mem = s.mem := rfl
@[simp] theorem State.setScreen_fb (s : State) (fb : Screen) : (s.setScreen fb).fb = fb := rfl
@[simp] theorem State.setScreen_draw (s : State) (fb : Screen) : (s.setScreen fb).draw = true := rfl
@[simp] theorem State.setScreen_keyPrev (s : State) (fb : Screen) : (s.setScreen fb).keyPrev = s.keyPrev := rfl
@[simp] theorem State.setScreen_halt (s : State) (fb : Screen) : (s.setScreen fb).halt = s.halt := rfl
@[simp] theorem State.setScreen_err (s : State) (fb : Screen) : (s.setScreen fb).err = s.err := rfl
@[simp] theorem State.setScreen_keys (s : State) (fb : Screen) : (s.setScreen fb).keys = s.keys := rfl
@[simp] theorem State.setScreen_rnd (s : State) (fb : Screen) : (s.setScreen fb).rnd = s.rnd := rfl
@[simp] theorem State.setScreen_result (s : State) (fb : Screen) : (s.setScreen fb).result = s.result := rfl
@[simp] theorem State.setScreen_loadable (s : State) (fb : Screen) : (s.setScreen fb).loadable = s.loadable := rfl
@[simp] theorem State.setScreen_script (s : State) (fb : Screen) : (s.setScreen fb).script = s.script := rfl
@[simp] theorem State.setScreen_clock (s : State) (fb : Screen) : (s.setScreen fb).clock = s.clock := rfl

/-! ### State.setI -/

@[simp] theorem State.setI_v (s : State) (w : Word) : (s.setI w).v = s.v := rfl
@[simp] theorem State.setI_i (s : State) (w : Word) : (s.setI w).i = w := rfl
@[simp] theorem State.setI_pc (s : State) (w : Word) : (s.setI w).pc = s.pc := rfl
@[simp] theorem State.setI_sp (s : State) (w : Word) : (s.setI w).sp = s.sp := rfl
@[simp] theorem State.setI_stack (s : State) (w : Word) : (s.setI w).stack = s.stack := rfl
@[simp] theorem State.setI_dt (s : State) (w : Word) : (s.setI w).dt = s.dt := rfl
@[simp] theorem State.setI_st (s : State) (w : Word) : (s.setI w).st = s.st := rfl
@[simp] theorem State.setI_mem (s : State) (w : Word) : (s.setI w).mem = s.mem := rfl
@[simp] theorem State.setI_fb (s : State) (w : Word) : (s.setI w).fb = s.fb := rfl
@[simp] theorem State.setI_draw (s : State) (w : Word) : (s.setI w).draw = s.draw := rfl
@[simp] theorem State.setI_keyPrev (s : State) (w : Word) : (s.setI w).keyPrev = s.keyPrev := rfl
@[simp] theorem State.setI_halt (s : State) (w : Word) : (s.setI w).halt = s.halt := rfl
@[simp] theorem State.setI_err (s : State) (w : Word) : (s.setI w).err = s.err := rfl
@[simp] theorem State.setI_keys (s : State) (w : Word) : (s.setI w).keys = s.keys := rfl
@[simp] theorem State.setI_rnd (s : State) (w : Word) : (s.setI w).rnd = s.rnd := rfl
@[simp] theorem State.setI_result (s : State) (w : Word) : (s.setI w).result = s.result := rfl
@[simp] theorem State.setI_loadable (s : State) (w : Word) : (s.setI w).loadable = s.loadable := rfl
@[simp] theorem State.setI_script (s : State) (w : Word) : (s.setI w).script = s.script := rfl
@[simp] theorem State.setI_clock (s : State) (w : Word) : (s.setI w).clock = s.clock := rfl

/-! ### State.setPc -/

@[simp] theorem State.setPc_v (s : State) (w : Word) : (s.setPc w).v = s.v := rfl
@[simp] theorem State.setPc_i (s : State) (w : Word) : (s.setPc w).i = s.i := rfl
@[simp] theorem State.setPc_pc (s : State) (w : Word) : (s.setPc w).pc = w := rfl
@[simp] theorem State.setPc_sp (s : State) (w : Word) : (s.setPc w).sp = s.sp := rfl
@[simp] theorem State.setPc_stack (s : State) (w : Word) : (s.setPc w).stack = s.stack := rfl
@[simp] theorem State.setPc_dt (s : State) (w : Word) : (s.setPc w).dt = s.dt := rfl
@[simp] theorem State.setPc_st (s : State) (w : Word) : (s.setPc w).st = s.st := rfl
@[simp] theorem State.setPc_mem (s : State) (w : Word) : (s.setPc w).mem = s.mem := rfl
@[simp] theorem State.setPc_fb (s : State) (w : Word) : (s.setPc w).fb = s.fb := rfl
@[simp] theorem State.setPc_draw (s : State) (w : Word) : (s.setPc w).draw = s.draw := rfl
@[simp] theorem State.setPc_keyPrev (s : State) (w : Word) : (s.setPc w).keyPrev = s.keyPrev := rfl
@[simp] theorem State.setPc_halt (s : State) (w : Word) : (s.setPc w).halt = s.halt := rfl
@[simp] theorem State.setPc_err (s : State) (w : Word) : (s.setPc w).err = s.err := rfl
@[simp] theorem State.setPc_keys (s : State) (w : Word) : (s.setPc w).keys = s.keys := rfl
@[simp] theorem State.setPc_rnd (s : State) (w : Word) : (s.setPc w).rnd = s.rnd := rfl
@[simp] theorem State.setPc_result (s : State) (w : Word) : (s.setPc w).result = s.result := rfl
@[simp] theorem State.setPc_loadable (s : State) (w : Word) : (s.setPc w).loadable = s.loadable := rfl
@[simp] theorem State.setPc_script (s : State) (w : Word) : (s.setPc w).script = s.script := rfl
@[simp] theorem State.setPc_clock (s : State) (w : Word) : (s.setPc w).clock = s.clock := rfl

/-! ### State.advance -/

@[simp] theorem State.advance_v (s : State) : s.advance.v = s.v := rfl
@[simp] theorem State.advance_i (s : State) : s.advance.i = s.i := rfl
@[simp] theorem State.advance_pc (s : State) : s.advance.pc = s.pc + 2 := rfl
@[simp] theorem State.advance_sp (s : State) : s.advance.sp = s.sp := rfl
@[simp] theorem State.advance_stack (s : State) : s.advance.stack = s.stack := rfl
@[simp] theorem State.advance_dt (s : State) : s.advance.dt = s.dt := rfl
@[simp] theorem State.advance_st (s : State) : s.advance.st = s.st := rfl
@[simp] theorem State.advance_mem (s : State) : s.advance.mem = s.mem := rfl
@[simp] theorem State.advance_fb (s : State) : s.advance.fb = s.fb := rfl
@[simp] theorem State.advance_draw (s : State) : s.advance.draw = s.draw := rfl
@[simp] theorem State.advance_keyPrev (s : State) : s.advance.keyPrev = s.keyPrev := rfl
@[simp] theorem State.advance_halt (s : State) : s.advance.halt = s.halt := rfl
@[simp] theorem State.advance_err (s : State) : s.advance.err = s.err := rfl
@[simp] theorem State.advance_keys (s : State) : s.advance.keys = s.keys := rfl
@[simp] theorem State.advance_rnd (s : State) : s.advance.rnd = s.rnd := rfl
@[simp] theorem State.advance_result (s : State) : s.advance.result = s.result := rfl
@[simp] theorem State.advance_loadable (s : State) : s.advance.loadable = s.loadable := rfl
@[simp] theorem State.advance_script (s : State) : s.advance.script = s.script := rfl
@[simp] theorem State.advance_clock (s : State) : s.advance.clock = s.clock := rfl

/-! ### State.skipIf -/

@[simp] theorem State.skipIf_v (s : State) (c : Bool) : (s.skipIf c).v = s.v := rfl
@[simp] theorem State.skipIf_i (s : State) (c : Bool) : (s.skipIf c).i = s.i := rfl
@[simp] theorem State.skipIf_pc (s : State) (c : Bool) : (s.skipIf c).pc = if c then s.pc + 4 else s.pc + 2 := rfl
@[simp] theorem State.skipIf_sp (s : State) (c : Bool) : (s.skipIf c).sp = s.sp := rfl
@[simp] theorem State.skipIf_stack (s : State) (c : Bool) : (s.skipIf c).stack = s.stack := rfl
@[simp] theorem State.skipIf_dt (s : State) (c : Bool) : (s.skipIf c).dt = s.dt := rfl
@[simp] theorem State.skipIf_st (s : State) (c : Bool) : (s.skipIf c).st = s.st := rfl
@[simp] theorem State.skipIf_mem (s : State) (c : Bool) : (s.skipIf c).mem = s.mem := rfl
@[simp] theorem State.skipIf_fb (s : State) (c : Bool) : (s.skipIf c).fb = s.fb := rfl
@[simp] theorem State.skipIf_draw (s : State) (c : Bool) : (s.skipIf c).draw = s.draw := rfl
@[simp] theorem State.skipIf_keyPrev (s : State) (c : Bool) : (s.skipIf c).keyPrev = s.keyPrev := rfl
@[simp] theorem State.skipIf_halt (s : State) (c : Bool) : (s.skipIf c).halt = s.halt := rfl
@[simp] theorem State.skipIf_err (s : State) (c : Bool) : (s.skipIf c).err = s.err := rfl
@[simp] theorem State.skipIf_keys (s : State) (c : Bool) : (s.skipIf c).keys = s.keys := rfl
@[simp] theorem State.skipIf_rnd (s : State) (c : Bool) : (s.skipIf c).rnd = s.rnd := rfl
@[simp] theorem State.skipIf_result (s : State) (c : Bool) : (s.skipIf c).result = s.result := rfl
@[simp] theorem State.skipIf_loadable (s : State) (c : Bool) : (s.skipIf c).loadable = s.loadable := rfl
@[simp] theorem State.skipIf_script (s : State) (c : Bool) : (s.skipIf c).script = s.script := rfl
@[simp] theorem State.skipIf_clock (s : State) (c : Bool) : (s.skipIf c).clock = s.clock := rfl

/-! ### State.store -/

@[simp] theorem State.store_v (s : State) (a : Nat) (bs : List Byte) : (s.store a bs).v = s.v := rfl
@[simp] theorem State.store_i (s : State) (a : Nat) (bs : List Byte) : (s.store a bs).i = s.i := rfl
@[simp] theorem State.store_pc (s : State) (a : Nat) (bs : List Byte) : (s.store a bs).pc = s.pc := rfl
@[simp] theorem State.store_sp (s : State) (a : Nat) (bs : List Byte) : (s.store a bs).sp = s.sp := rfl
@[simp] theorem State.store_stack (s : State) (a : Nat) (bs : List Byte) : (s.store a bs).stack = s.stack := rfl
@[simp] theorem State.store_dt (s : State) (a : Nat) (bs : List Byte) : (s.store a bs).dt = s.dt := rfl
@[simp] theorem State.store_st (s : State) (a : Nat) (bs : List Byte) : (s.store a bs).st = s.st := rfl
@[simp] theorem State.store_mem (s : State) (a : Nat) (bs : List Byte) :
    (s.store a bs).mem = s.mem.writeRange a bs := rfl
@[simp] theorem State.store_fb (s : State) (a : Nat) (bs : List Byte) : (s.store a bs).fb = s.fb := rfl
@[simp] theorem State.store_draw (s : State) (a : Nat) (bs : List Byte) : (s.store a bs).draw = s.draw := rfl
@[simp] theorem State.store_keyPrev (s : State) (a : Nat) (bs : List Byte) : (s.store a bs).keyPrev = s.keyPrev := rfl
@[simp] theorem State.store_halt (s : State) (a : Nat) (bs : List Byte) : (s.store a bs).halt = s.halt := rfl
@[simp] theorem State.store_err (s : State) (a : Nat) (bs : List Byte) : (s.store a bs).err = s.err := rfl
@[simp] theorem State.store_keys (s : State) (a : Nat) (bs : List Byte) : (s.store a bs).keys = s.keys := rfl
@[simp] theorem State.store_rnd (s : State) (a : Nat) (bs : List Byte) : (s.store a bs).rnd = s.rnd := rfl
@[simp] theorem State.store_result (s : State) (a : Nat) (bs : List Byte) : (s.store a bs).result = s.result := rfl
@[simp] theorem State.store_loadable (s : State) (a : Nat) (bs : List Byte) :
    (s.store a bs).loadable = s.loadable := rfl
@[simp] theorem State.store_script (s : State) (a : Nat) (bs : List Byte) : (s.store a bs).script = s.script := rfl
@[simp] theorem State.store_clock (s : State) (a : Nat) (bs : List Byte) : (s.store a bs).clock = s.clock := rfl

/-! ### State.push -/

@[simp] theorem State.push_v (s : State) (w : Word) : (s.push w).v = s.v := rfl
@[simp] theorem State.push_i (s : State) (w : Word) : (s.push w).i = s.i := rfl
@[simp] theorem State.push_pc (s : State) (w : Word) : (s.push w).pc = s.pc := rfl
@[simp] theorem State.push_sp (s : State) (w : Word) : (s.push w).sp = s.sp + 1 := rfl
@[simp] theorem State.push_stack (s : State) (w : Word) : (s.push w).stack = s.stack.setIfInBounds s.sp w := rfl
@[simp] theorem State.push_dt (s : State) (w : Word) : (s.push w).dt = s.dt := rfl
@[simp] theorem State.push_st (s : State) (w : Word) : (s.push w).st = s.st := rfl
@[simp] theorem State.push_mem (s : State) (w : Word) : (s.push w).mem = s.mem := rfl
@[simp] theorem State.push_fb (s : State) (w : Word) : (s.push w).fb = s.fb := rfl
@[simp] theorem State.push_draw (s : State) (w : Word) : (s.push w).draw = s.draw := rfl
@[simp] theorem State.push_keyPrev (s : State) (w : Word) : (s.push w).keyPrev = s.keyPrev := rfl
@[simp] theorem State.push_halt (s : State) (w : Word) : (s.push w).halt = s.halt := rfl
@[simp] theorem State.push_err (s : State) (w : Word) : (s.push w).err = s.err := rfl
@[simp] theorem State.push_keys (s : State) (w : Word) : (s.push w).keys = s.keys := rfl
@[simp] theorem State.push_rnd (s : State) (w : Word) : (s.push w).rnd = s.rnd := rfl
@[simp] theorem State.push_result (s : State) (w : Word) : (s.push w).result = s.result := rfl
@[simp] theorem State.push_loadable (s : State) (w : Word) : (s.push w).loadable = s.loadable := rfl
@[simp] theorem State.push_script (s : State) (w : Word) : (s.push w).script = s.script := rfl
@[simp] theorem State.push_clock (s : State) (w : Word) : (s.push w).clock = s.clock := rfl

/-! ### State.popPc -/

@[simp] theorem State.popPc_v (s : State) : s.popPc.v = s.v := rfl
@[simp] theorem State.popPc_i (s : State) : s.popPc.i = s.i := rfl
@[simp] theorem State.popPc_pc (s : State) : s.popPc.pc = s.stackAt (s.sp - 1) := rfl
@[simp] theorem State.popPc_sp (s : State) : s.popPc.sp = s.sp - 1 := rfl
@[simp] theorem State.popPc_stack (s : State) : s.popPc.stack = s.stack := rfl
@[simp] theorem State.popPc_dt (s : State) : s.popPc.dt = s.dt := rfl
@[simp] theorem State.popPc_st (s : State) : s.popPc.st = s.st := rfl
@[simp] theorem State.popPc_mem (s : State) : s.popPc.mem = s.mem := rfl
@[simp] theorem State.popPc_fb (s : State) : s.popPc.fb = s.fb := rfl
@[simp] theorem State.popPc_draw (s : State) : s.popPc.draw = s.draw := rfl
@[simp] theorem State.popPc_keyPrev (s : State) : s.popPc.keyPrev = s.keyPrev := rfl
@[simp] theorem State.popPc_halt (s : State) : s.popPc.halt = s.halt := rfl
@[simp] theorem State.popPc_err (s : State) : s.popPc.err = s.err := rfl
@[simp] theorem State.popPc_keys (s : State) : s.popPc.keys = s.keys := rfl
@[simp] theorem State.popPc_rnd (s : State) : s.popPc.rnd = s.rnd := rfl
@[simp] theorem State.popPc_result (s : State) : s.popPc.result = s.result := rfl
@[simp] theorem State.popPc_loadable (s : State) : s.popPc.loadable = s.loadable := rfl
@[simp] theorem State.popPc_script (s : State) : s.popPc.script = s.script := rfl
@[simp] theorem State.popPc_clock (s : State) : s.popPc.clock = s.clock := rfl

/-! ### State.setVFlag -/

@[simp] theorem State.setVFlag_v (s : State) (x : Reg) (r f : Byte) :
    (s.setVFlag x r f).v = (s.v.set x r).set regF f := rfl
@[simp] theorem State.setVFlag_i (s : State) (x : Reg) (r f : Byte) : (s.setVFlag x r f).i = s.i := rfl
@[simp] theorem State.setVFlag_pc (s : State) (x : Reg) (r f : Byte) : (s.setVFlag x r f).pc = s.pc := rfl
@[simp] theorem State.setVFlag_sp (s : State) (x : Reg) (r f : Byte) : (s.setVFlag x r f).sp = s.sp := rfl
@[simp] theorem State.setVFlag_stack (s : State) (x : Reg) (r f : Byte) : (s.setVFlag x r f).stack = s.stack := rfl
@[simp] theorem State.setVFlag_dt (s : State) (x : Reg) (r f : Byte) : (s.setVFlag x r f).dt = s.dt := rfl
@[simp] theorem State.setVFlag_st (s : State) (x : Reg) (r f : Byte) : (s.setVFlag x r f).st = s.st := rfl
@[simp] theorem State.setVFlag_mem (s : State) (x : Reg) (r f : Byte) : (s.setVFlag x r f).mem = s.mem := rfl
@[simp] theorem State.setVFlag_fb (s : State) (x : Reg) (r f : Byte) : (s.setVFlag x r f).fb = s.fb := rfl
@[simp] theorem State.setVFlag_draw (s : State) (x : Reg) (r f : Byte) : (s.setVFlag x r f).draw = s.draw := rfl
@[simp] theorem State.setVFlag_keyPrev (s : State) (x : Reg) (r f : Byte) :
    (s.setVFlag x r f).keyPrev = s.keyPrev := rfl
@[simp] theorem State.setVFlag_halt (s : State) (x : Reg) (r f : Byte) : (s.setVFlag x r f).halt = s.halt := rfl
@[simp] theorem State.setVFlag_err (s : State) (x : Reg) (r f : Byte) : (s.setVFlag x r f).err = s.err := rfl
@[simp] theorem State.setVFlag_keys (s : State) (x : Reg) (r f : Byte) : (s.setVFlag x r f).keys = s.keys := rfl
@[simp] theorem State.setVFlag_rnd (s : State) (x : Reg) (r f : Byte) : (s.setVFlag x r f).rnd = s.rnd := rfl
@[simp] theorem State.setVFlag_result (s : State) (x : Reg) (r f : Byte) : (s.setVFlag x r f).result = s.result := rfl
@[simp] theorem State.setVFlag_loadable (s : State) (x : Reg) (r f : Byte) :
    (s.setVFlag x r f).loadable = s.loadable := rfl
@[simp] theorem State.setVFlag_script (s : State) (x : Reg) (r f : Byte) : (s.setVFlag x r f).script = s.script := rfl
@[simp] theorem State.setVFlag_clock (s : State) (x : Reg) (r f : Byte) : (s.setVFlag x r f).clock = s.clock := rfl

/-! ### raiseFatal -/

@[simp] theorem raiseFatal_v (kind : ErrKind) (sub : SubCause) (info : Word) (s : State) :
    (raiseFatal kind sub info s).v = s.v := rfl
@[simp] theorem raiseFatal_i (kind : ErrKind) (sub : SubCause) (info : Word) (s : State) :
    (raiseFatal kind sub info s).i = s.i := rfl
@[simp] theorem raiseFatal_pc (kind : ErrKind) (sub : SubCause) (info : Word) (s : State) :
    (raiseFatal kind sub info s).pc = s.pc := rfl
@[simp] theorem raiseFatal_sp (kind : ErrKind) (sub : SubCause) (info : Word) (s : State) :
    (raiseFatal kind sub info s).sp = s.sp := rfl
@[simp] theorem raiseFatal_stack (kind : ErrKind) (sub : SubCause) (info : Word) (s : State) :
    (raiseFatal kind sub info s).stack = s.stack := rfl
@[simp] theorem raiseFatal_dt (kind : ErrKind) (sub : SubCause) (info : Word) (s : State) :
    (raiseFatal kind sub info s).dt = s.dt := rfl
@[simp] theorem raiseFatal_st (kind : ErrKind) (sub : SubCause) (info : Word) (s : State) :
    (raiseFatal kind sub info s).st = s.st := rfl
@[simp] theorem raiseFatal_mem (kind : ErrKind) (sub : SubCause) (info : Word) (s : State) :
    (raiseFatal kind sub info s).mem = s.mem := rfl
@[simp] theorem raiseFatal_fb (kind : ErrKind) (sub : SubCause) (info : Word) (s : State) :
    (raiseFatal kind sub info s).fb = s.fb := rfl
@[simp] theorem raiseFatal_draw (kind : ErrKind) (sub : SubCause) (info : Word) (s : State) :
    (raiseFatal kind sub info s).draw = s.draw := rfl
@[simp] theorem raiseFatal_keyPrev (kind : ErrKind) (sub : SubCause) (info : Word) (s : State) :
    (raiseFatal kind sub info s).keyPrev = s.keyPrev := rfl
@[simp] theorem raiseFatal_halt (kind : ErrKind) (sub : SubCause) (info : Word) (s : State) :
    (raiseFatal kind sub info s).halt = true := rfl
@[simp] theorem raiseFatal_err (kind : ErrKind) (sub : SubCause) (info : Word) (s : State) :
    (raiseFatal kind sub info s).err = ⟨kind, sub, info, s.pc⟩ := rfl
@[simp] theorem raiseFatal_keys (kind : ErrKind) (sub : SubCause) (info : Word) (s : State) :
    (raiseFatal kind sub info s).keys = s.keys := rfl
@[simp] theorem raiseFatal_rnd (kind : ErrKind) (sub : SubCause) (info : Word) (s : State) :
    (raiseFatal kind sub info s).rnd = s.rnd := rfl
@[simp] theorem raiseFatal_result (kind : ErrKind) (sub : SubCause) (info : Word) (s : State) :
    (raiseFatal kind sub info s).result = .fatal ⟨kind, sub, info, s.pc⟩ := rfl
@[simp] theorem raiseFatal_loadable (kind : ErrKind) (sub : SubCause) (info : Word) (s : State) :
    (raiseFatal kind sub info s).loadable = s.loadable := rfl
@[simp] theorem raiseFatal_script (kind : ErrKind) (sub : SubCause) (info : Word) (s : State) :
    (raiseFatal kind sub info s).script = s.script := rfl
@[simp] theorem raiseFatal_clock (kind : ErrKind) (sub : SubCause) (info : Word) (s : State) :
    (raiseFatal kind sub info s).clock = s.clock := rfl

/-! ### execUnknown -/

@[simp] theorem execUnknown_v (op : Word) (s : State) : (execUnknown op s).v = s.v := rfl
@[simp] theorem execUnknown_i (op : Word) (s : State) : (execUnknown op s).i = s.i := rfl
@[simp] theorem execUnknown_pc (op : Word) (s : State) : (execUnknown op s).pc = s.pc + 2 := rfl
@[simp] theorem execUnknown_sp (op : Word) (s : State) : (execUnknown op s).sp = s.sp := rfl
@[simp] theorem execUnknown_stack (op : Word) (s : State) : (execUnknown op s).stack = s.stack := rfl
@[simp] theorem execUnknown_dt (op : Word) (s : State) : (execUnknown op s).dt = s.dt := rfl
@[simp] theorem execUnknown_st (op : Word) (s : State) : (execUnknown op s).st = s.st := rfl
@[simp] theorem execUnknown_mem (op : Word) (s : State) : (execUnknown op s).mem = s.mem := rfl
@[simp] theorem execUnknown_fb (op : Word) (s : State) : (execUnknown op s).fb = s.fb := rfl
@[simp] theorem execUnknown_draw (op : Word) (s : State) : (execUnknown op s).draw = s.draw := rfl
@[simp] theorem execUnknown_keyPrev (op : Word) (s : State) : (execUnknown op s).keyPrev = s.keyPrev := rfl
@[simp] theorem execUnknown_halt (op : Word) (s : State) : (execUnknown op s).halt = s.halt := rfl
@[simp] theorem execUnknown_err (op : Word) (s : State) : (execUnknown op s).err = s.err := rfl
@[simp] theorem execUnknown_keys (op : Word) (s : State) : (execUnknown op s).keys = s.keys := rfl
@[simp] theorem execUnknown_rnd (op : Word) (s : State) : (execUnknown op s).rnd = s.rnd := rfl
@[simp] theorem execUnknown_result (op : Word) (s : State) :
    (execUnknown op s).result = .diagnostic ⟨.unknownOpcode, .none, op, s.pc⟩ := rfl
@[simp] theorem execUnknown_loadable (op : Word) (s : State) : (execUnknown op s).loadable = s.loadable := rfl
@[simp] theorem execUnknown_script (op : Word) (s : State) : (execUnknown op s).script = s.script := rfl
@[simp] theorem execUnknown_clock (op : Word) (s : State) : (execUnknown op s).clock = s.clock := rfl

/-! ### finishFlagged -/

@[simp] theorem finishFlagged_v (x : Reg) (r : Byte × Bool) (s : State) :
    (finishFlagged x r s).v = (s.v.set x r.1).set regF (flagByte r.2) := rfl
@[simp] theorem finishFlagged_i (x : Reg) (r : Byte × Bool) (s : State) : (finishFlagged x r s).i = s.i := rfl
@[simp] theorem finishFlagged_pc (x : Reg) (r : Byte × Bool) (s : State) : (finishFlagged x r s).pc = s.pc + 2 := rfl
@[simp] theorem finishFlagged_sp (x : Reg) (r : Byte × Bool) (s : State) : (finishFlagged x r s).sp = s.sp := rfl
@[simp] theorem finishFlagged_stack (x : Reg) (r : Byte × Bool) (s : State) :
    (finishFlagged x r s).stack = s.stack := rfl
@[simp] theorem finishFlagged_dt (x : Reg) (r : Byte × Bool) (s : State) : (finishFlagged x r s).dt = s.dt := rfl
@[simp] theorem finishFlagged_st (x : Reg) (r : Byte × Bool) (s : State) : (finishFlagged x r s).st = s.st := rfl
@[simp] theorem finishFlagged_mem (x : Reg) (r : Byte × Bool) (s : State) : (finishFlagged x r s).mem = s.mem := rfl
@[simp] theorem finishFlagged_fb (x : Reg) (r : Byte × Bool) (s : State) : (finishFlagged x r s).fb = s.fb := rfl
@[simp] theorem finishFlagged_draw (x : Reg) (r : Byte × Bool) (s : State) :
    (finishFlagged x r s).draw = s.draw := rfl
@[simp] theorem finishFlagged_keyPrev (x : Reg) (r : Byte × Bool) (s : State) :
    (finishFlagged x r s).keyPrev = s.keyPrev := rfl
@[simp] theorem finishFlagged_halt (x : Reg) (r : Byte × Bool) (s : State) :
    (finishFlagged x r s).halt = s.halt := rfl
@[simp] theorem finishFlagged_err (x : Reg) (r : Byte × Bool) (s : State) : (finishFlagged x r s).err = s.err := rfl
@[simp] theorem finishFlagged_keys (x : Reg) (r : Byte × Bool) (s : State) :
    (finishFlagged x r s).keys = s.keys := rfl
@[simp] theorem finishFlagged_rnd (x : Reg) (r : Byte × Bool) (s : State) : (finishFlagged x r s).rnd = s.rnd := rfl
@[simp] theorem finishFlagged_result (x : Reg) (r : Byte × Bool) (s : State) :
    (finishFlagged x r s).result = s.result := rfl
@[simp] theorem finishFlagged_loadable (x : Reg) (r : Byte × Bool) (s : State) :
    (finishFlagged x r s).loadable = s.loadable := rfl
@[simp] theorem finishFlagged_script (x : Reg) (r : Byte × Bool) (s : State) :
    (finishFlagged x r s).script = s.script := rfl
@[simp] theorem finishFlagged_clock (x : Reg) (r : Byte × Bool) (s : State) :
    (finishFlagged x r s).clock = s.clock := rfl

/-! ### beginCycle -/

@[simp] theorem beginCycle_v (k : Keys) (r : Byte) (s : State) : (beginCycle k r s).v = s.v := rfl
@[simp] theorem beginCycle_i (k : Keys) (r : Byte) (s : State) : (beginCycle k r s).i = s.i := rfl
@[simp] theorem beginCycle_pc (k : Keys) (r : Byte) (s : State) : (beginCycle k r s).pc = s.pc := rfl
@[simp] theorem beginCycle_sp (k : Keys) (r : Byte) (s : State) : (beginCycle k r s).sp = s.sp := rfl
@[simp] theorem beginCycle_stack (k : Keys) (r : Byte) (s : State) : (beginCycle k r s).stack = s.stack := rfl
@[simp] theorem beginCycle_dt (k : Keys) (r : Byte) (s : State) : (beginCycle k r s).dt = s.dt := rfl
@[simp] theorem beginCycle_st (k : Keys) (r : Byte) (s : State) : (beginCycle k r s).st = s.st := rfl
@[simp] theorem beginCycle_mem (k : Keys) (r : Byte) (s : State) : (beginCycle k r s).mem = s.mem := rfl
@[simp] theorem beginCycle_fb (k : Keys) (r : Byte) (s : State) : (beginCycle k r s).fb = s.fb := rfl
@[simp] theorem beginCycle_draw (k : Keys) (r : Byte) (s : State) : (beginCycle k r s).draw = s.draw := rfl
@[simp] theorem beginCycle_keyPrev (k : Keys) (r : Byte) (s : State) : (beginCycle k r s).keyPrev = s.keyPrev := rfl
@[simp] theorem beginCycle_halt (k : Keys) (r : Byte) (s : State) : (beginCycle k r s).halt = s.halt := rfl
@[simp] theorem beginCycle_err (k : Keys) (r : Byte) (s : State) : (beginCycle k r s).err = s.err := rfl
@[simp] theorem beginCycle_keys (k : Keys) (r : Byte) (s : State) : (beginCycle k r s).keys = k := rfl
@[simp] theorem beginCycle_rnd (k : Keys) (r : Byte) (s : State) : (beginCycle k r s).rnd = r := rfl
@[simp] theorem beginCycle_result (k : Keys) (r : Byte) (s : State) : (beginCycle k r s).result = .ok := rfl
@[simp] theorem beginCycle_loadable (k : Keys) (r : Byte) (s : State) : (beginCycle k r s).loadable = false := rfl
@[simp] theorem beginCycle_script (k : Keys) (r : Byte) (s : State) : (beginCycle k r s).script = s.script := rfl
@[simp] theorem beginCycle_clock (k : Keys) (r : Byte) (s : State) : (beginCycle k r s).clock = s.clock := rfl

/-! ### timerTick -/

@[simp] theorem timerTick_v (s : State) : (timerTick s).v = s.v := rfl
@[simp] theorem timerTick_i (s : State) : (timerTick s).i = s.i := rfl
@[simp] theorem timerTick_pc (s : State) : (timerTick s).pc = s.pc := rfl
@[simp] theorem timerTick_sp (s : State) : (timerTick s).sp = s.sp := rfl
@[simp] theorem timerTick_stack (s : State) : (timerTick s).stack = s.stack := rfl
@[simp] theorem timerTick_dt (s : State) : (timerTick s).dt = countDown s.dt := rfl
@[simp] theorem timerTick_st (s : State) : (timerTick s).st = countDown s.st := rfl
@[simp] theorem timerTick_mem (s : State) : (timerTick s).mem = s.mem := rfl
@[simp] theorem timerTick_fb (s : State) : (timerTick s).fb = s.fb := rfl
@[simp] theorem timerTick_draw (s : State) : (timerTick s).draw = s.draw := rfl
@[simp] theorem timerTick_keyPrev (s : State) : (timerTick s).keyPrev = s.keyPrev := rfl
@[simp] theorem timerTick_halt (s : State) : (timerTick s).halt = s.halt := rfl
@[simp] theorem timerTick_err (s : State) : (timerTick s).err = s.err := rfl
@[simp] theorem timerTick_keys (s : State) : (timerTick s).keys = s.keys := rfl
@[simp] theorem timerTick_rnd (s : State) : (timerTick s).rnd = s.rnd := rfl
@[simp] theorem timerTick_result (s : State) : (timerTick s).result = .nothing := rfl
@[simp] theorem timerTick_loadable (s : State) : (timerTick s).loadable = s.loadable := rfl
@[simp] theorem timerTick_script (s : State) : (timerTick s).script = s.script := rfl
@[simp] theorem timerTick_clock (s : State) : (timerTick s).clock = s.clock := rfl

/-! ### fbRead -/

@[simp] theorem fbRead_v (s : State) : (fbRead s).v = s.v := rfl
@[simp] theorem fbRead_i (s : State) : (fbRead s).i = s.i := rfl
@[simp] theorem fbRead_pc (s : State) : (fbRead s).pc = s.pc := rfl
@[simp] theorem fbRead_sp (s : State) : (fbRead s).sp = s.sp := rfl
@[simp] theorem fbRead_stack (s : State) : (fbRead s).stack = s.stack := rfl
@[simp] theorem fbRead_dt (s : State) : (fbRead s).dt = s.dt := rfl
@[simp] theorem fbRead_st (s : State) : (fbRead s).st = s.st := rfl
@[simp] theorem fbRead_mem (s : State) : (fbRead s).mem = s.mem := rfl
@[simp] theorem fbRead_fb (s : State) : (fbRead s).fb = s.fb := rfl
@[simp] theorem fbRead_draw (s : State) : (fbRead s).draw = false := rfl
@[simp] theorem fbRead_keyPrev (s : State) : (fbRead s).keyPrev = s.keyPrev := rfl
@[simp] theorem fbRead_halt (s : State) : (fbRead s).halt = s.halt := rfl
@[simp] theorem fbRead_err (s : State) : (fbRead s).err = s.err := rfl
@[simp] theorem fbRead_keys (s : State) : (fbRead s).keys = s.keys := rfl
@[simp] theorem fbRead_rnd (s : State) : (fbRead s).rnd = s.rnd := rfl
@[simp] theorem fbRead_result (s : State) : (fbRead s).result = .snapshot s.fb s.draw := rfl
@[simp] theorem fbRead_loadable (s : State) : (fbRead s).loadable = s.loadable := rfl
@[simp] theorem fbRead_script (s : State) : (fbRead s).script = s.script := rfl
@[simp] theorem fbRead_clock (s : State) : (fbRead s).clock = s.clock := rfl

/-! ### statusRead -/

@[simp] theorem statusRead_v (s : State) : (statusRead s).v = s.v := rfl
@[simp] theorem statusRead_i (s : State) : (statusRead s).i = s.i := rfl
@[simp] theorem statusRead_pc (s : State) : (statusRead s).pc = s.pc := rfl
@[simp] theorem statusRead_sp (s : State) : (statusRead s).sp = s.sp := rfl
@[simp] theorem statusRead_stack (s : State) : (statusRead s).stack = s.stack := rfl
@[simp] theorem statusRead_dt (s : State) : (statusRead s).dt = s.dt := rfl
@[simp] theorem statusRead_st (s : State) : (statusRead s).st = s.st := rfl
@[simp] theorem statusRead_mem (s : State) : (statusRead s).mem = s.mem := rfl
@[simp] theorem statusRead_fb (s : State) : (statusRead s).fb = s.fb := rfl
@[simp] theorem statusRead_draw (s : State) : (statusRead s).draw = s.draw := rfl
@[simp] theorem statusRead_keyPrev (s : State) : (statusRead s).keyPrev = s.keyPrev := rfl
@[simp] theorem statusRead_halt (s : State) : (statusRead s).halt = s.halt := rfl
@[simp] theorem statusRead_err (s : State) : (statusRead s).err = s.err := rfl
@[simp] theorem statusRead_keys (s : State) : (statusRead s).keys = s.keys := rfl
@[simp] theorem statusRead_rnd (s : State) : (statusRead s).rnd = s.rnd := rfl
@[simp] theorem statusRead_result (s : State) : (statusRead s).result = .status (sound s) s.halt s.err := rfl
@[simp] theorem statusRead_loadable (s : State) : (statusRead s).loadable = s.loadable := rfl
@[simp] theorem statusRead_script (s : State) : (statusRead s).script = s.script := rfl
@[simp] theorem statusRead_clock (s : State) : (statusRead s).clock = s.clock := rfl

/-! ### takeEvent -/

@[simp] theorem takeEvent_v (s : State) : (takeEvent s).v = s.v := rfl
@[simp] theorem takeEvent_i (s : State) : (takeEvent s).i = s.i := rfl
@[simp] theorem takeEvent_pc (s : State) : (takeEvent s).pc = s.pc := rfl
@[simp] theorem takeEvent_sp (s : State) : (takeEvent s).sp = s.sp := rfl
@[simp] theorem takeEvent_stack (s : State) : (takeEvent s).stack = s.stack := rfl
@[simp] theorem takeEvent_dt (s : State) : (takeEvent s).dt = s.dt := rfl
@[simp] theorem takeEvent_st (s : State) : (takeEvent s).st = s.st := rfl
@[simp] theorem takeEvent_mem (s : State) : (takeEvent s).mem = s.mem := rfl
@[simp] theorem takeEvent_fb (s : State) : (takeEvent s).fb = s.fb := rfl
@[simp] theorem takeEvent_draw (s : State) : (takeEvent s).draw = s.draw := rfl
@[simp] theorem takeEvent_keyPrev (s : State) : (takeEvent s).keyPrev = s.keyPrev := rfl
@[simp] theorem takeEvent_halt (s : State) : (takeEvent s).halt = s.halt := rfl
@[simp] theorem takeEvent_err (s : State) : (takeEvent s).err = s.err := rfl
@[simp] theorem takeEvent_keys (s : State) : (takeEvent s).keys = s.keys := rfl
@[simp] theorem takeEvent_rnd (s : State) : (takeEvent s).rnd = s.rnd := rfl
@[simp] theorem takeEvent_result (s : State) : (takeEvent s).result = s.result := rfl
@[simp] theorem takeEvent_loadable (s : State) : (takeEvent s).loadable = s.loadable := rfl
@[simp] theorem takeEvent_script (s : State) : (takeEvent s).script = s.script.tail := rfl
@[simp] theorem takeEvent_clock (s : State) : (takeEvent s).clock = s.clock + 1 := rfl

/-! ### closeCycle -/

@[simp] theorem closeCycle_v (s : State) : (closeCycle s).v = s.v := by
  unfold closeCycle; split <;> rfl
@[simp] theorem closeCycle_i (s : State) : (closeCycle s).i = s.i := by
  unfold closeCycle; split <;> rfl
@[simp] theorem closeCycle_pc (s : State) : (closeCycle s).pc = s.pc := by
  unfold closeCycle; split <;> rfl
@[simp] theorem closeCycle_sp (s : State) : (closeCycle s).sp = s.sp := by
  unfold closeCycle; split <;> rfl
@[simp] theorem closeCycle_stack (s : State) : (closeCycle s).stack = s.stack := by
  unfold closeCycle; split <;> rfl
@[simp] theorem closeCycle_dt (s : State) : (closeCycle s).dt = s.dt := by
  unfold closeCycle; split <;> rfl
@[simp] theorem closeCycle_st (s : State) : (closeCycle s).st = s.st := by
  unfold closeCycle; split <;> rfl
@[simp] theorem closeCycle_mem (s : State) : (closeCycle s).mem = s.mem := by
  unfold closeCycle; split <;> rfl
@[simp] theorem closeCycle_fb (s : State) : (closeCycle s).fb = s.fb := by
  unfold closeCycle; split <;> rfl
@[simp] theorem closeCycle_draw (s : State) : (closeCycle s).draw = s.draw := by
  unfold closeCycle; split <;> rfl
@[simp] theorem closeCycle_keyPrev (s : State) :
    (closeCycle s).keyPrev = if s.halt then s.keyPrev else s.keys := by
  unfold closeCycle; split <;> rfl
@[simp] theorem closeCycle_halt (s : State) : (closeCycle s).halt = s.halt := by
  unfold closeCycle; split <;> rfl
@[simp] theorem closeCycle_err (s : State) : (closeCycle s).err = s.err := by
  unfold closeCycle; split <;> rfl
@[simp] theorem closeCycle_keys (s : State) : (closeCycle s).keys = s.keys := by
  unfold closeCycle; split <;> rfl
@[simp] theorem closeCycle_rnd (s : State) : (closeCycle s).rnd = s.rnd := by
  unfold closeCycle; split <;> rfl
@[simp] theorem closeCycle_result (s : State) : (closeCycle s).result = s.result := by
  unfold closeCycle; split <;> rfl
@[simp] theorem closeCycle_loadable (s : State) : (closeCycle s).loadable = s.loadable := by
  unfold closeCycle; split <;> rfl
@[simp] theorem closeCycle_script (s : State) : (closeCycle s).script = s.script := by
  unfold closeCycle; split <;> rfl
@[simp] theorem closeCycle_clock (s : State) : (closeCycle s).clock = s.clock := by
  unfold closeCycle; split <;> rfl

end Sys2Proof.Machine
end

