-- ==== Sys2Proof/Laws/Ops.lean ====
section
/-! SUPPORT. What each shared operation can do, said once: registers, the stack, flags, the range check, the end of a cycle,
the cycle and the step; and how frames are shown and joined. -/

namespace Sys2Proof.Machine

/-! ### The fixed sizes as numbers (R6) -/

theorem memSize_eq : Config.memSize = 4096 := rfl
theorem progBase_eq : Config.progBase = 512 := rfl
theorem loadMax_eq : Config.loadMax = 3584 := rfl
theorem stackDepth_eq : Config.stackDepth = 16 := rfl
theorem fontBase_eq : Config.fontBase = 0 := rfl
theorem glyphBytes_eq : Config.glyphBytes = 5 := rfl

/-! ### Registers -/

theorem getV_setV (s : State) (r q : Reg) (b : Byte) : (s.setV r b).getV q = if q = r then b else s.getV q := by
  simp only [State.getV, State.setV_v, Fin.getElem_fin, Vector.getElem_set, Fin.ext_iff]
  split <;> split <;> first | rfl | omega

@[simp] theorem getV_setV_self (s : State) (r : Reg) (b : Byte) : (s.setV r b).getV r = b := by simp [getV_setV]

theorem getV_setV_ne (s : State) {r q : Reg} (b : Byte) (h : q ≠ r) : (s.setV r b).getV q = s.getV q := by
  simp [getV_setV, h]

/-- A register read depends on the register file only. -/
theorem getV_congr {s t : State} (h : t.v = s.v) (r : Reg) : t.getV r = s.getV r := by simp [State.getV, h]

theorem getV_setVFlag (s : State) (x q : Reg) (r f : Byte) :
    (s.setVFlag x r f).getV q = if q = 15 then f else if q = x then r else s.getV q := by
  simp only [State.setVFlag, getV_setV, regF]

theorem getV_finishFlagged (s : State) (x q : Reg) (r : Byte × Bool) :
    (finishFlagged x r s).getV q = if q = 15 then flagByte r.2 else if q = x then r.1 else s.getV q := by
  rw [← getV_setVFlag]
  exact getV_congr rfl q

/-- Where the bytes put into a register file stand. -/
theorem registersFrom_getElem (v : Vector Byte 16) (bytes : List Byte) (k j : Nat) (hj : j < 16) :
    (registersFrom v k bytes)[j] = if k ≤ j then (bytes[j - k]?).getD v[j] else v[j] := by
  induction bytes generalizing v k with
  | nil => simp [registersFrom]
  | cons b bs ih =>
    rw [registersFrom, ih]
    by_cases h1 : k = j
    · subst h1
      simp
    · by_cases h2 : k ≤ j
      · obtain ⟨d, rfl⟩ : ∃ d, j = k + 1 + d := ⟨j - (k + 1), by omega⟩
        have e1 : k + 1 + d - k = d + 1 := by omega
        have e2 : k + 1 + d - (k + 1) = d := by omega
        simp [h1, h2, e1, e2]
      · have : ¬ k + 1 ≤ j := by omega
        simp [h1, h2, this]

theorem getV_registersLoaded (x k : Reg) (s : State) :
    (registersLoaded x s)[k] = if k ≤ x then s.mem.read (s.i.toNat + k.val) else s.getV k := by
  simp only [registersLoaded, Fin.getElem_fin, registersFrom_getElem, Nat.zero_le, if_true, Nat.sub_zero, State.getV,
    Fin.le_def]
  by_cases h : k.val ≤ x.val
  · rw [if_pos h, List.getElem?_eq_getElem (by simp; omega), Option.getD_some, readRange_getElem]
  · rw [if_neg h, List.getElem?_eq_none (by simp; omega), Option.getD_none]

/-! ### The stack -/

theorem stackAt_push (s : State) (w : Word) (k : Nat) :
    (s.push w).stackAt k = if k = s.sp ∧ k < 16 then w else s.stackAt k := by
  simp only [State.stackAt, State.push_stack]
  by_cases h : k = s.sp
  · subst h
    by_cases hk : s.sp < 16
    · simp [hk]
    · simp [hk]
  · rw [Vector.getElem?_setIfInBounds_ne (fun hh => h hh.symm)]
    simp [h]

theorem stackAt_congr {s t : State} (h : t.stack = s.stack) (k : Nat) : t.stackAt k = s.stackAt k := by
  simp [State.stackAt, h]

/-! ### Flags -/

theorem flagByte_eq_one (f : Bool) : flagByte f = 1 ↔ f = true := by cases f <;> simp [flagByte]

/-! ### The range check -/

/-- What the range check answers: the goal state when the range exists, else the fatal error. -/
theorem ifDataInMemory_cases (n : Nat) (s t : State) :
    ((n = 0 ∨ s.i.toNat + n ≤ 0x1000) ∧ ifDataInMemory n s t = t) ∨
    ((0 < n ∧ 0x1000 < s.i.toNat + n) ∧ ifDataInMemory n s t = raiseFatal .outOfBounds .data 0x1000 s) := by
  unfold ifDataInMemory
  by_cases h : inMemory s.i.toNat n = true
  · exact .inl ⟨(inMemory_iff _ _).mp h, if_pos h⟩
  · refine .inr ⟨?_, if_neg h⟩
    rw [inMemory_iff] at h
    omega

theorem ifDataInMemory_of_in {n : Nat} {s : State} (t : State) (h : n = 0 ∨ s.i.toNat + n ≤ 0x1000) :
    ifDataInMemory n s t = t := if_pos ((inMemory_iff _ _).mpr h)

theorem ifDataInMemory_of_out {n : Nat} {s : State} (t : State) (h0 : 0 < n) (h : 0x1000 < s.i.toNat + n) :
    ifDataInMemory n s t = raiseFatal .outOfBounds .data 0x1000 s := by
  refine if_neg ?_
  rw [inMemory_iff]
  omega

/-! ### Frames -/

theorem frame_refl (may : Elem → Prop) (s : State) : Frame may s s := fun e _ => by cases e <;> rfl

/-- A frame may always allow more. -/
theorem Frame.mono {may may' : Elem → Prop} {s t : State} (h : Frame may s t) (hm : ∀ e, may e → may' e) : Frame may' s t :=
  fun e he => h e fun hh => he (hm e hh)

theorem Elem.same_trans {e : Elem} {s t u : State} (h1 : e.same s t) (h2 : e.same t u) : e.same s u := by
  cases e <;> exact Eq.trans h2 h1

theorem Frame.trans {may : Elem → Prop} {s t u : State} (h1 : Frame may s t) (h2 : Frame may t u) : Frame may s u :=
  fun e he => Elem.same_trans (h1 e he) (h2 e he)

/-- A fatal error is fatal and nothing more. -/
theorem raiseFatal_isFatal (kind : ErrKind) (sub : SubCause) (info : Word) (s : State) :
    IsFatal kind sub info s (raiseFatal kind sub info s) := by
  refine ⟨rfl, rfl, rfl, fun e he => ?_⟩
  cases e <;> first | rfl | exact absurd (by simp) he

/-- Moving `PC` moves nothing else. -/
theorem setPc_frame (s : State) (w : Word) : Frame (fun e => e = .pc) s (s.setPc w) := fun e he => by
  cases e <;> first | rfl | exact absurd rfl he

theorem advance_frame (s : State) : Frame (fun e => e = .pc) s s.advance := setPc_frame s _

/-- Writing a register writes nothing else. -/
theorem setV_frame (s : State) (x : Reg) (b : Byte) : Frame (fun e => e = .v x) s (s.setV x b) := fun e he => by
  cases e with
  | v r => exact getV_setV_ne s b fun h => he (by rw [h])
  | _ => rfl

/-- A byte read back once a range is stored inside `MEM`. -/
theorem read_store {s : State} (hm : s.mem.wf = true) {a : Nat} {bytes : List Byte} (h : a + bytes.length ≤ 0x1000) (c : Nat) :
    (s.store a bytes).mem.read c = overlaid s a bytes c := by
  unfold overlaid
  split
  · next hc =>
    by_cases hk : c - a < bytes.length
    · have := Memory.read_writeRange_inside hm bytes h (c - a) hk
      rw [Nat.add_sub_of_le hc] at this
      simpa [State.store, hk] using this
    · simpa [State.store, hk] using Memory.read_writeRange_outside s.mem bytes (a := a) (c := c) (by omega)
  · exact Memory.read_writeRange_outside s.mem bytes (by omega)

/-- A store writes the bytes it names and nothing else. -/
theorem store_frame (s : State) (a : Nat) (bytes : List Byte) :
    Frame (fun e => ∃ k, k < bytes.length ∧ e = .mem (a + k)) s (s.store a bytes) := fun e he => by
  cases e with
  | mem c =>
    refine Memory.read_writeRange_outside s.mem bytes ?_
    by_contra hc
    exact he ⟨c - a, by omega, by congr 1; omega⟩
  | _ => rfl

/-! ### The end of a cycle -/

/-- How a cycle ends: as it is after a Fatal, else with the snapshot recorded (R126). -/
theorem closeCycle_cases (s : State) :
    (s.halt = true ∧ closeCycle s = s) ∨ (s.halt = false ∧ closeCycle s = { s with keyPrev := s.keys }) := by
  unfold closeCycle
  cases h : s.halt <;> simp

/-- A closed answer is a next state exactly when the answer was. -/
theorem closeAnswer_next {a : Answer} {t : State} : closeAnswer a = .next t ↔ ∃ u, a = .next u ∧ t = closeCycle u := by
  cases a <;> simp [closeAnswer, eq_comm]

/-! ### The cycle and the step -/

theorem fetch_eq (s : State) :
    fetch s = if s.pc.toNat + 1 ≤ 0xFFF then some (opcodeOfBytes (s.mem.read s.pc.toNat) (s.mem.read (s.pc.toNat + 1)))
      else none := memReadWord_eq _ _

/-- Everything a cycle that answers a next state can have done (R120 to R127). -/
theorem cycle_cases {keys : Keys} {rnd : Byte} {s t : State} (h : cycle keys rnd s = .next t) :
    s.halt = false ∧
    ((0xFFF < s.pc.toNat + 1 ∧ t = raiseFatal .outOfBounds .fetch s.pc (beginCycle keys rnd s)) ∨
     (s.pc.toNat + 1 ≤ 0xFFF ∧ ∃ op, fetch s = some op ∧
       ((∃ i u, decode op = .instr i ∧ exec i (beginCycle keys rnd s) = .next u ∧ t = closeCycle u) ∨
        (∃ w, decode op = .unknown w ∧ t = closeCycle (execUnknown w (beginCycle keys rnd s)))))) := by
  unfold cycle at h
  split at h
  · cases h
  · rename_i hh
    refine ⟨by simpa using hh, ?_⟩
    by_cases hp : s.pc.toNat + 1 ≤ 0xFFF
    · rw [fetch_eq, if_pos hp] at h
      refine .inr ⟨hp, _, by rw [fetch_eq, if_pos hp], ?_⟩
      simp only [runOpcode] at h
      split at h
      · rename_i i hd
        obtain ⟨u, hu, rfl⟩ := closeAnswer_next.mp h
        exact .inl ⟨i, u, hd, hu, rfl⟩
      · rename_i w hd
        cases h
        exact .inr ⟨w, hd, rfl⟩
    · rw [fetch_eq, if_neg hp] at h
      cases h
      exact .inl ⟨by omega, rfl⟩

/-- Everything a load that answers a next state can have done (R278, R279). -/
theorem load_cases {bytes : List Byte} {s t : State} (h : load bytes s = .next t) :
    s.loadable = true ∧ s.halt = false ∧
    ((bytes.length ≤ 3584 ∧ t = { s.store 0x200 bytes with result := .loadAccepted }) ∨
     (3584 < bytes.length ∧ t = { s with result := .programTooLarge })) := by
  unfold load at h
  split at h
  · rename_i hc
    simp only [Bool.and_eq_true, Bool.not_eq_true'] at hc
    refine ⟨hc.1, hc.2, ?_⟩
    by_cases hl : bytes.length > 3584
    · rw [if_pos hl] at h
      cases h
      exact .inr ⟨hl, rfl⟩
    · rw [if_neg hl] at h
      cases h
      exact .inl ⟨by omega, rfl⟩
  · cases h

/-- Everything a step that answers a next state can have done: one of the six events (R38). -/
theorem step_cases {s t : State} (h : step s = .next t) :
    (nextEvent s = .reset ∧ t = resetEvent (takeEvent s)) ∨
    (∃ bytes, nextEvent s = .load bytes ∧ load bytes (takeEvent s) = .next t) ∨
    (∃ keys rnd, nextEvent s = .cycle keys rnd ∧ cycle keys rnd (takeEvent s) = .next t) ∨
    (nextEvent s = .timerTick ∧ t = timerTick (takeEvent s)) ∨
    (nextEvent s = .fbRead ∧ t = fbRead (takeEvent s)) ∨
    (nextEvent s = .statusRead ∧ t = statusRead (takeEvent s)) := by
  unfold step at h
  cases he : nextEvent s with
  | reset => rw [he] at h; cases h; exact .inl ⟨rfl, rfl⟩
  | load bytes => rw [he] at h; exact .inr (.inl ⟨bytes, rfl, h⟩)
  | cycle keys rnd => rw [he] at h; exact .inr (.inr (.inl ⟨keys, rnd, rfl, h⟩))
  | timerTick => rw [he] at h; cases h; exact .inr (.inr (.inr (.inl ⟨rfl, rfl⟩)))
  | fbRead => rw [he] at h; cases h; exact .inr (.inr (.inr (.inr (.inl ⟨rfl, rfl⟩))))
  | statusRead => rw [he] at h; cases h; exact .inr (.inr (.inr (.inr (.inr ⟨rfl, rfl⟩))))

/-! ### Keys -/

/-- The lowest key of a set, if the set has one (R213). -/
theorem lowestKey_eq_some {ks : Keys} {k : Nat} :
    lowestKey ks = some k ↔ k < 16 ∧ ks.getLsbD k = true ∧ ∀ j, j < k → ks.getLsbD j = false := by
  unfold lowestKey
  rw [List.find?_range_eq_some]
  simp only [List.mem_range, Bool.not_eq_true']
  tauto

theorem lowestKey_eq_none {ks : Keys} : lowestKey ks = none ↔ ∀ k, k < 16 → ks.getLsbD k = false := by
  simp [lowestKey]

/-- The keys with an edge: held now and not the cycle before (R36). -/
theorem keyEdges_getLsbD (s : State) {k : Nat} (hk : k < 16) :
    (keyEdges s).getLsbD k = true ↔ s.keys.getLsbD k = true ∧ s.keyPrev.getLsbD k = false := by
  simp [keyEdges, hk]

end Sys2Proof.Machine
end

