-- ==== Sys2Proof/Laws/PerInstr.lean ====
section
/-! SUPPORT. The statements made for each instruction, one lemma a constructor: the opcode of a well-formed instruction is in
its own row of the opcode map (30_encoding.md R96), and that row builds the instruction back from it. -/

namespace Sys2Proof.Laws.EncodeHitsItsRow

/-- The opcode of `i` hits a row of the table, and the row reads `i` from it. -/
def Statement (i : Instr) : Prop :=
  i.wf = true → ∃ r ∈ opcodeTable, r.hits (encode i) = true ∧ r.build (encode i) = i

theorem of_row {i : Instr} (r : OpcodeRow) (hr : r ∈ opcodeTable) (hh : encode i &&& r.mask = r.pattern)
    (hb : r.build (encode i) = i) : Statement i :=
  fun _ => ⟨r, hr, by simpa [OpcodeRow.hits] using hh, hb⟩

theorem cls : Statement .cls :=
  of_row ⟨0x00E0, 0xFFFF, fun _ => .cls⟩ (List.mem_of_getElem? (i := 0) rfl) (by decide) rfl

theorem ret : Statement .ret :=
  of_row ⟨0x00EE, 0xFFFF, fun _ => .ret⟩ (List.mem_of_getElem? (i := 1) rfl) (by decide) rfl

theorem jp (nnn : Addr12) : Statement (.jp nnn) :=
  of_row ⟨0x1000, 0xF000, fun op => .jp (fieldNNN op)⟩ (List.mem_of_getElem? (i := 2) rfl)
    (encodeNNN_hits (by decide) nnn) (congrArg Instr.jp (fieldNNN_encodeNNN (by decide) nnn))

theorem call (nnn : Addr12) : Statement (.call nnn) :=
  of_row ⟨0x2000, 0xF000, fun op => .call (fieldNNN op)⟩ (List.mem_of_getElem? (i := 3) rfl)
    (encodeNNN_hits (by decide) nnn) (congrArg Instr.call (fieldNNN_encodeNNN (by decide) nnn))

theorem seImm (x : Reg) (nn : Byte) : Statement (.seImm x nn) :=
  of_row ⟨0x3000, 0xF000, fun op => .seImm (fieldX op) (fieldNN op)⟩ (List.mem_of_getElem? (i := 4) rfl)
    (encodeXNN_hits (by decide) x nn)
    (congrArg₂ Instr.seImm (fieldX_encodeXNN (by decide) x nn) (fieldNN_encodeXNN (by decide) x nn))

theorem sneImm (x : Reg) (nn : Byte) : Statement (.sneImm x nn) :=
  of_row ⟨0x4000, 0xF000, fun op => .sneImm (fieldX op) (fieldNN op)⟩ (List.mem_of_getElem? (i := 5) rfl)
    (encodeXNN_hits (by decide) x nn)
    (congrArg₂ Instr.sneImm (fieldX_encodeXNN (by decide) x nn) (fieldNN_encodeXNN (by decide) x nn))

theorem seReg (x y : Reg) : Statement (.seReg x y) :=
  of_row ⟨0x5000, 0xF00F, fun op => .seReg (fieldX op) (fieldY op)⟩ (List.mem_of_getElem? (i := 6) rfl)
    (encodeXY_hits (by decide) x y)
    (congrArg₂ Instr.seReg (fieldX_encodeXY (by decide) x y) (fieldY_encodeXY (by decide) x y))

theorem ldImm (x : Reg) (nn : Byte) : Statement (.ldImm x nn) :=
  of_row ⟨0x6000, 0xF000, fun op => .ldImm (fieldX op) (fieldNN op)⟩ (List.mem_of_getElem? (i := 7) rfl)
    (encodeXNN_hits (by decide) x nn)
    (congrArg₂ Instr.ldImm (fieldX_encodeXNN (by decide) x nn) (fieldNN_encodeXNN (by decide) x nn))

theorem addImm (x : Reg) (nn : Byte) : Statement (.addImm x nn) :=
  of_row ⟨0x7000, 0xF000, fun op => .addImm (fieldX op) (fieldNN op)⟩ (List.mem_of_getElem? (i := 8) rfl)
    (encodeXNN_hits (by decide) x nn)
    (congrArg₂ Instr.addImm (fieldX_encodeXNN (by decide) x nn) (fieldNN_encodeXNN (by decide) x nn))

theorem ldReg (x y : Reg) : Statement (.ldReg x y) :=
  of_row ⟨0x8000, 0xF00F, fun op => .ldReg (fieldX op) (fieldY op)⟩ (List.mem_of_getElem? (i := 9) rfl)
    (encodeXY_hits (by decide) x y)
    (congrArg₂ Instr.ldReg (fieldX_encodeXY (by decide) x y) (fieldY_encodeXY (by decide) x y))

theorem orReg (x y : Reg) : Statement (.orReg x y) :=
  of_row ⟨0x8001, 0xF00F, fun op => .orReg (fieldX op) (fieldY op)⟩ (List.mem_of_getElem? (i := 10) rfl)
    (encodeXY_hits (by decide) x y)
    (congrArg₂ Instr.orReg (fieldX_encodeXY (by decide) x y) (fieldY_encodeXY (by decide) x y))

theorem andReg (x y : Reg) : Statement (.andReg x y) :=
  of_row ⟨0x8002, 0xF00F, fun op => .andReg (fieldX op) (fieldY op)⟩ (List.mem_of_getElem? (i := 11) rfl)
    (encodeXY_hits (by decide) x y)
    (congrArg₂ Instr.andReg (fieldX_encodeXY (by decide) x y) (fieldY_encodeXY (by decide) x y))

theorem xorReg (x y : Reg) : Statement (.xorReg x y) :=
  of_row ⟨0x8003, 0xF00F, fun op => .xorReg (fieldX op) (fieldY op)⟩ (List.mem_of_getElem? (i := 12) rfl)
    (encodeXY_hits (by decide) x y)
    (congrArg₂ Instr.xorReg (fieldX_encodeXY (by decide) x y) (fieldY_encodeXY (by decide) x y))

theorem addReg (x y : Reg) : Statement (.addReg x y) :=
  of_row ⟨0x8004, 0xF00F, fun op => .addReg (fieldX op) (fieldY op)⟩ (List.mem_of_getElem? (i := 13) rfl)
    (encodeXY_hits (by decide) x y)
    (congrArg₂ Instr.addReg (fieldX_encodeXY (by decide) x y) (fieldY_encodeXY (by decide) x y))

theorem subReg (x y : Reg) : Statement (.subReg x y) :=
  of_row ⟨0x8005, 0xF00F, fun op => .subReg (fieldX op) (fieldY op)⟩ (List.mem_of_getElem? (i := 14) rfl)
    (encodeXY_hits (by decide) x y)
    (congrArg₂ Instr.subReg (fieldX_encodeXY (by decide) x y) (fieldY_encodeXY (by decide) x y))

theorem shr (x y : Reg) : Statement (.shr x y) :=
  of_row ⟨0x8006, 0xF00F, fun op => .shr (fieldX op) (fieldY op)⟩ (List.mem_of_getElem? (i := 15) rfl)
    (encodeXY_hits (by decide) x y)
    (congrArg₂ Instr.shr (fieldX_encodeXY (by decide) x y) (fieldY_encodeXY (by decide) x y))

theorem subnReg (x y : Reg) : Statement (.subnReg x y) :=
  of_row ⟨0x8007, 0xF00F, fun op => .subnReg (fieldX op) (fieldY op)⟩ (List.mem_of_getElem? (i := 16) rfl)
    (encodeXY_hits (by decide) x y)
    (congrArg₂ Instr.subnReg (fieldX_encodeXY (by decide) x y) (fieldY_encodeXY (by decide) x y))

theorem shl (x y : Reg) : Statement (.shl x y) :=
  of_row ⟨0x800E, 0xF00F, fun op => .shl (fieldX op) (fieldY op)⟩ (List.mem_of_getElem? (i := 17) rfl)
    (encodeXY_hits (by decide) x y)
    (congrArg₂ Instr.shl (fieldX_encodeXY (by decide) x y) (fieldY_encodeXY (by decide) x y))

theorem sneReg (x y : Reg) : Statement (.sneReg x y) :=
  of_row ⟨0x9000, 0xF00F, fun op => .sneReg (fieldX op) (fieldY op)⟩ (List.mem_of_getElem? (i := 18) rfl)
    (encodeXY_hits (by decide) x y)
    (congrArg₂ Instr.sneReg (fieldX_encodeXY (by decide) x y) (fieldY_encodeXY (by decide) x y))

theorem ldI (nnn : Addr12) : Statement (.ldI nnn) :=
  of_row ⟨0xA000, 0xF000, fun op => .ldI (fieldNNN op)⟩ (List.mem_of_getElem? (i := 19) rfl)
    (encodeNNN_hits (by decide) nnn) (congrArg Instr.ldI (fieldNNN_encodeNNN (by decide) nnn))

theorem jpV0 (nnn : Addr12) : Statement (.jpV0 nnn) :=
  of_row ⟨0xB000, 0xF000, fun op => .jpV0 (fieldNNN op)⟩ (List.mem_of_getElem? (i := 20) rfl)
    (encodeNNN_hits (by decide) nnn) (congrArg Instr.jpV0 (fieldNNN_encodeNNN (by decide) nnn))

theorem rnd (x : Reg) (nn : Byte) : Statement (.rnd x nn) :=
  of_row ⟨0xC000, 0xF000, fun op => .rnd (fieldX op) (fieldNN op)⟩ (List.mem_of_getElem? (i := 21) rfl)
    (encodeXNN_hits (by decide) x nn)
    (congrArg₂ Instr.rnd (fieldX_encodeXNN (by decide) x nn) (fieldNN_encodeXNN (by decide) x nn))

theorem drw (x y : Reg) (n : Nat) : Statement (.drw x y n) := fun hw => by
  have hn : n < 16 := of_decide_eq_true hw
  obtain ⟨h1, h2, h3⟩ := fields_encodeXYN x y hn
  refine of_row ⟨0xD000, 0xF000, fun op => .drw (fieldX op) (fieldY op) (fieldN op)⟩ (List.mem_of_getElem? (i := 22) rfl)
    (encodeXYN_hits x y hn) ?_ hw
  show Instr.drw (fieldX (encodeXYN 0xD000 x y n)) (fieldY (encodeXYN 0xD000 x y n)) (fieldN (encodeXYN 0xD000 x y n)) = _
  rw [h1, h2, h3]

theorem skp (x : Reg) : Statement (.skp x) :=
  of_row ⟨0xE09E, 0xF0FF, fun op => .skp (fieldX op)⟩ (List.mem_of_getElem? (i := 23) rfl)
    (encodeX_hits (by decide) x) (congrArg Instr.skp (fieldX_encodeX (by decide) x))

theorem sknp (x : Reg) : Statement (.sknp x) :=
  of_row ⟨0xE0A1, 0xF0FF, fun op => .sknp (fieldX op)⟩ (List.mem_of_getElem? (i := 24) rfl)
    (encodeX_hits (by decide) x) (congrArg Instr.sknp (fieldX_encodeX (by decide) x))

theorem ldVxDt (x : Reg) : Statement (.ldVxDt x) :=
  of_row ⟨0xF007, 0xF0FF, fun op => .ldVxDt (fieldX op)⟩ (List.mem_of_getElem? (i := 25) rfl)
    (encodeX_hits (by decide) x) (congrArg Instr.ldVxDt (fieldX_encodeX (by decide) x))

theorem ldVxK (x : Reg) : Statement (.ldVxK x) :=
  of_row ⟨0xF00A, 0xF0FF, fun op => .ldVxK (fieldX op)⟩ (List.mem_of_getElem? (i := 26) rfl)
    (encodeX_hits (by decide) x) (congrArg Instr.ldVxK (fieldX_encodeX (by decide) x))

theorem ldDtVx (x : Reg) : Statement (.ldDtVx x) :=
  of_row ⟨0xF015, 0xF0FF, fun op => .ldDtVx (fieldX op)⟩ (List.mem_of_getElem? (i := 27) rfl)
    (encodeX_hits (by decide) x) (congrArg Instr.ldDtVx (fieldX_encodeX (by decide) x))

theorem ldStVx (x : Reg) : Statement (.ldStVx x) :=
  of_row ⟨0xF018, 0xF0FF, fun op => .ldStVx (fieldX op)⟩ (List.mem_of_getElem? (i := 28) rfl)
    (encodeX_hits (by decide) x) (congrArg Instr.ldStVx (fieldX_encodeX (by decide) x))

theorem addI (x : Reg) : Statement (.addI x) :=
  of_row ⟨0xF01E, 0xF0FF, fun op => .addI (fieldX op)⟩ (List.mem_of_getElem? (i := 29) rfl)
    (encodeX_hits (by decide) x) (congrArg Instr.addI (fieldX_encodeX (by decide) x))

theorem ldF (x : Reg) : Statement (.ldF x) :=
  of_row ⟨0xF029, 0xF0FF, fun op => .ldF (fieldX op)⟩ (List.mem_of_getElem? (i := 30) rfl)
    (encodeX_hits (by decide) x) (congrArg Instr.ldF (fieldX_encodeX (by decide) x))

theorem ldB (x : Reg) : Statement (.ldB x) :=
  of_row ⟨0xF033, 0xF0FF, fun op => .ldB (fieldX op)⟩ (List.mem_of_getElem? (i := 31) rfl)
    (encodeX_hits (by decide) x) (congrArg Instr.ldB (fieldX_encodeX (by decide) x))

theorem storeRegs (x : Reg) : Statement (.storeRegs x) :=
  of_row ⟨0xF055, 0xF0FF, fun op => .storeRegs (fieldX op)⟩ (List.mem_of_getElem? (i := 32) rfl)
    (encodeX_hits (by decide) x) (congrArg Instr.storeRegs (fieldX_encodeX (by decide) x))

theorem loadRegs (x : Reg) : Statement (.loadRegs x) :=
  of_row ⟨0xF065, 0xF0FF, fun op => .loadRegs (fieldX op)⟩ (List.mem_of_getElem? (i := 33) rfl)
    (encodeX_hits (by decide) x) (congrArg Instr.loadRegs (fieldX_encodeX (by decide) x))

end Sys2Proof.Laws.EncodeHitsItsRow
end

