-- ==== Sys2Proof/Laws/Screen.lean ====
section
/-! SUPPORT. The laws of the framebuffer: what toggling a pixel changes, and what toggling a list of different pixels leaves. -/

namespace Sys2Proof.Machine

/-- Two framebuffers with the same pixels are the same. -/
theorem Screen.ext_pixel {f g : Screen} (h : ∀ x y, f.pixel x y = g.pixel x y) : f = g := by
  refine Vector.ext fun y hy => BitVec.eq_of_getLsbD_eq fun x hx => ?_
  exact h ⟨x, hx⟩ ⟨y, hy⟩

/-- Toggling a pixel inverts it and leaves every other alone. -/
theorem Screen.pixel_toggle (fb : Screen) (x px : Fin 64) (y py : Fin 32) :
    (fb.toggle x y).pixel px py = (fb.pixel px py ^^ decide (px = x ∧ py = y)) := by
  simp only [Screen.pixel, Screen.toggle, Fin.getElem_fin, Vector.getElem_set]
  by_cases hy : y = py
  · subst hy
    simp only [if_true, BitVec.getLsbD_xor, BitVec.getLsbD_twoPow, x.isLt, decide_true, Bool.true_and]
    congr 1
    by_cases hx : px = x
    · simp [hx]
    · have : ¬ x.val = px.val := fun h => hx (Fin.ext h.symm)
      simp [hx, this]
  · have : ¬ y.val = py.val := fun h => hy (Fin.ext h)
    have h2 : ¬ py = y := fun h => hy h.symm
    simp [this, h2]

/-- Toggling different pixels inverts exactly those; the flag is set exactly when it was set before or one of them was 1. -/
theorem togglePixels_spec (l : List (Fin 64 × Fin 32)) (hl : l.Nodup) (fb : Screen) (c : Bool) :
    (∀ px py, (togglePixels l (fb, c)).1.pixel px py = (fb.pixel px py ^^ decide ((px, py) ∈ l))) ∧
    ((togglePixels l (fb, c)).2 = true ↔ c = true ∨ ∃ px py, (px, py) ∈ l ∧ fb.pixel px py = true) := by
  induction l generalizing fb c with
  | nil => simp [togglePixels]
  | cons p rest ih =>
    obtain ⟨x, y⟩ := p
    obtain ⟨hnot, hrest⟩ := List.nodup_cons.mp hl
    obtain ⟨ih1, ih2⟩ := ih hrest (fb.toggle x y) (c || fb.pixel x y)
    refine ⟨fun px py => ?_, ?_⟩
    · rw [togglePixels, ih1, Screen.pixel_toggle]
      by_cases h : px = x ∧ py = y
      · obtain ⟨rfl, rfl⟩ := h
        simp [hnot]
      · have : ¬ ((px, py) = (x, y)) := by simpa using h
        simp [h, this]
    · rw [togglePixels, ih2]
      simp only [Screen.pixel_toggle, Bool.or_eq_true, List.mem_cons]
      constructor
      · rintro ((h | h) | ⟨px, py, hm, hp⟩)
        · exact .inl h
        · exact .inr ⟨x, y, .inl rfl, h⟩
        · have : ¬ (px = x ∧ py = y) := by rintro ⟨rfl, rfl⟩; exact hnot hm
          exact .inr ⟨px, py, .inr hm, by simpa [this] using hp⟩
      · rintro (h | ⟨px, py, hm | hm, hp⟩)
        · exact .inl (.inl h)
        · obtain ⟨rfl, rfl⟩ := Prod.mk.inj hm
          exact .inl (.inr hp)
        · have : ¬ (px = x ∧ py = y) := by rintro ⟨rfl, rfl⟩; exact hnot hm
          exact .inr ⟨px, py, hm, by simpa [this] using hp⟩

/-- The pixels of one row of a sprite. -/
theorem mem_rowPixels {x0 y0 r : Nat} {b : Byte} {px : Fin 64} {py : Fin 32} :
    (px, py) ∈ rowPixels x0 y0 r b ↔
      (∃ c, c < 8 ∧ b.getLsbD (7 - c) = true ∧ (x0 + c) % 64 = px.val) ∧ (y0 + r) % 32 = py.val := by
  simp only [rowPixels, List.mem_map, List.mem_filter, List.mem_range, Prod.mk.injEq, Fin.ext_iff, Fin.val_ofNat]
  constructor
  · rintro ⟨c, ⟨hc, hb⟩, hx, hy⟩
    exact ⟨⟨c, hc, hb, hx⟩, hy⟩
  · rintro ⟨⟨c, hc, hb, hx⟩, hy⟩
    exact ⟨c, ⟨hc, hb⟩, hx, hy⟩

/-- The pixels of a sprite: bit `c` of byte `k` stands at column `x0 + c`, row `y0 + r + k`, modulo 64 and 32 (R203). -/
theorem mem_spritePixels {x0 y0 r : Nat} {bytes : List Byte} {px : Fin 64} {py : Fin 32} :
    (px, py) ∈ spritePixels x0 y0 r bytes ↔
      ∃ k, ∃ h : k < bytes.length, ∃ c, c < 8 ∧ bytes[k].getLsbD (7 - c) = true ∧ (x0 + c) % 64 = px.val ∧
        (y0 + r + k) % 32 = py.val := by
  induction bytes generalizing r with
  | nil => simp [spritePixels]
  | cons b bs ih =>
    rw [spritePixels, List.mem_append, mem_rowPixels, ih]
    constructor
    · rintro (⟨⟨c, hc, hb, hx⟩, hy⟩ | ⟨k, hk, c, hc, hb, hx, hy⟩)
      · exact ⟨0, by simp, c, hc, hb, hx, by simpa using hy⟩
      · exact ⟨k + 1, by simpa using hk, c, hc, by simpa using hb, hx, by rw [← hy]; congr 1; omega⟩
    · rintro ⟨k, hk, c, hc, hb, hx, hy⟩
      cases k with
      | zero => exact .inl ⟨⟨c, hc, by simpa using hb, hx⟩, by simpa using hy⟩
      | succ k => exact .inr ⟨k, by simpa using hk, c, hc, by simpa using hb, hx, by rw [← hy]; congr 1; omega⟩

theorem rowPixels_nodup (x0 y0 r : Nat) (b : Byte) : (rowPixels x0 y0 r b).Nodup := by
  unfold rowPixels
  refine List.Nodup.map_on ?_ (List.nodup_range.filter _)
  intro c hc d hd h
  simp only [List.mem_filter, List.mem_range] at hc hd
  have := congrArg Fin.val (Prod.mk.inj h).1
  simp only [Fin.val_ofNat] at this
  omega

/-- The pixels of a sprite of at most 32 rows are all different, wrapped or not (R202). -/
theorem spritePixels_nodup {x0 y0 r : Nat} {bytes : List Byte} (h : bytes.length ≤ 32) :
    (spritePixels x0 y0 r bytes).Nodup := by
  induction bytes generalizing r with
  | nil => exact List.nodup_nil
  | cons b bs ih =>
    simp only [List.length_cons] at h
    rw [spritePixels]
    refine List.Nodup.append (rowPixels_nodup ..) (ih (by omega)) fun p hp hq => ?_
    obtain ⟨px, py⟩ := p
    obtain ⟨-, h1⟩ := mem_rowPixels.mp hp
    obtain ⟨k, hk, c, -, -, -, h2⟩ := mem_spritePixels.mp hq
    omega

end Sys2Proof.Machine
end

