-- ==== Sys2Proof/Tests/Slice0.lean ====
section
/-! SUPPORT. The model's own tests. Expected values are the spec's: the vectors S and T of 95_test_vectors.md (section 2.1 for
decoding), which start from its baseline B0, and the opcode map of 30_encoding.md R96. A witness shows a state and operands
that meet all the hypotheses of the obligation it is named after. -/

namespace Sys2Proof.Tests

open Sys2Proof Sys2Proof.Machine

/-! ### WellFormed: the one check, refused and passed -/

theorem test_wf_refuses_sixteen_rows : Instr.wf (.drw 0 0 16) = false := by decide

theorem test_wf_accepts_fifteen_rows : Instr.wf (.drw 0 0 15) = true := by decide

/-! ### Decoding: for each constructor a word written out from the spec's encoding of it (95_test_vectors.md section 2.1) -/

theorem test_decode_cls : decodeTableWord 16 0x00E0 = some (.cls) := by decide

theorem test_decode_ret : decodeTableWord 16 0x00EE = some (.ret) := by decide

theorem test_decode_jp : decodeTableWord 16 0x1ABC = some (.jp 0xABC) := by decide

theorem test_decode_call : decodeTableWord 16 0x2ABC = some (.call 0xABC) := by decide

theorem test_decode_seImm : decodeTableWord 16 0x3A7F = some (.seImm 0xA 0x7F) := by decide

theorem test_decode_sneImm : decodeTableWord 16 0x4B00 = some (.sneImm 0xB 0x00) := by decide

theorem test_decode_seReg : decodeTableWord 16 0x5AB0 = some (.seReg 0xA 0xB) := by decide

theorem test_decode_ldImm : decodeTableWord 16 0x6C12 = some (.ldImm 0xC 0x12) := by decide

theorem test_decode_addImm : decodeTableWord 16 0x7D34 = some (.addImm 0xD 0x34) := by decide

theorem test_decode_ldReg : decodeTableWord 16 0x8AB0 = some (.ldReg 0xA 0xB) := by decide

theorem test_decode_orReg : decodeTableWord 16 0x8AB1 = some (.orReg 0xA 0xB) := by decide

theorem test_decode_andReg : decodeTableWord 16 0x8AB2 = some (.andReg 0xA 0xB) := by decide

theorem test_decode_xorReg : decodeTableWord 16 0x8AB3 = some (.xorReg 0xA 0xB) := by decide

theorem test_decode_addReg : decodeTableWord 16 0x8AB4 = some (.addReg 0xA 0xB) := by decide

theorem test_decode_subReg : decodeTableWord 16 0x8AB5 = some (.subReg 0xA 0xB) := by decide

theorem test_decode_shr : decodeTableWord 16 0x8AB6 = some (.shr 0xA 0xB) := by decide

theorem test_decode_subnReg : decodeTableWord 16 0x8AB7 = some (.subnReg 0xA 0xB) := by decide

theorem test_decode_shl : decodeTableWord 16 0x8ABE = some (.shl 0xA 0xB) := by decide

theorem test_decode_sneReg : decodeTableWord 16 0x9AB0 = some (.sneReg 0xA 0xB) := by decide

theorem test_decode_ldI : decodeTableWord 16 0xA123 = some (.ldI 0x123) := by decide

theorem test_decode_jpV0 : decodeTableWord 16 0xB123 = some (.jpV0 0x123) := by decide

theorem test_decode_rnd : decodeTableWord 16 0xC5F0 = some (.rnd 5 0xF0) := by decide

theorem test_decode_drw : decodeTableWord 16 0xD123 = some (.drw 1 2 3) := by decide

theorem test_decode_skp : decodeTableWord 16 0xE59E = some (.skp 5) := by decide

theorem test_decode_sknp : decodeTableWord 16 0xE5A1 = some (.sknp 5) := by decide

theorem test_decode_ldVxDt : decodeTableWord 16 0xF507 = some (.ldVxDt 5) := by decide

theorem test_decode_ldVxK : decodeTableWord 16 0xF50A = some (.ldVxK 5) := by decide

theorem test_decode_ldDtVx : decodeTableWord 16 0xF515 = some (.ldDtVx 5) := by decide

theorem test_decode_ldStVx : decodeTableWord 16 0xF518 = some (.ldStVx 5) := by decide

theorem test_decode_addI : decodeTableWord 16 0xF51E = some (.addI 5) := by decide

theorem test_decode_ldF : decodeTableWord 16 0xF529 = some (.ldF 5) := by decide

theorem test_decode_ldB : decodeTableWord 16 0xF533 = some (.ldB 5) := by decide

theorem test_decode_storeRegs : decodeTableWord 16 0xF555 = some (.storeRegs 5) := by decide

theorem test_decode_loadRegs : decodeTableWord 16 0xF565 = some (.loadRegs 5) := by decide

/-- Words one bit or one nibble away from an instruction, and encodings of the extensions (section 2.1). -/
theorem test_decode_unknown_words :
    ([0x0000, 0x00E1, 0x00FE, 0x01E0, 0x5AB1, 0x8AB8, 0x8ABF, 0x9AB1, 0xE59F, 0xE5A0, 0xF50B, 0xF530, 0xF575] : List Word).all
      (fun op => decode op == .unknown op) = true := by decide

theorem test_decode_jump_is_not_cls : decode 0x10E0 = .instr (.jp 0x0E0) := by decide

/-! ### Instructions: one step each, from the baseline B0 -/

/-- B0: the state after `Reset`, then one `FbRead`. -/
def b0 : State := { State.reset with draw := false }

/-- B0 with registers set. -/
def withRegs (l : List (Reg × Byte)) (s : State := b0) : State := l.foldl (fun s p => s.setV p.1 p.2) s

/-- B0 with `I`. -/
def withI (w : Word) (s : State := b0) : State := s.setI w

/-- The opcode at `PC` runs in one cycle, the answer is a next state, and it meets the check. -/
def ran (s : State) (op : Nat) (check : State → Bool) : Bool :=
  match step (s.withFetchWord 16 op) with
  | .next t => check t
  | .fault _ => false
  | .refused _ => false

/-- The event is performed in one step, the answer is a next state, and it meets the check. -/
def took (e : Event) (s : State) (check : State → Bool) : Bool :=
  match step { s with script := [e] } with
  | .next t => check t
  | .fault _ => false
  | .refused _ => false

/-- The pixel in column `x` of row `y`. -/
def px (t : State) (x : Fin 64) (y : Fin 32) : Bool := t.fb.pixel x y

/-- How many pixels are 1. -/
def lit (t : State) : Nat :=
  ((List.finRange 32).map (fun y => ((List.finRange 64).filter (fun x => px t x y)).length)).sum

theorem test_T121_cls_blanks_screen : ran ({ b0 with fb := (Screen.blank.toggle 0 0).toggle 63 31 }) 0x00E0
    (fun t => px t 0 0 == false && px t 63 31 == false && t.draw) = true := by decide

theorem test_T4_ret_pops : ran ({ b0 with pc := 0x300, sp := 1, stack := b0.stack.set 0 0x202 }) 0x00EE
    (fun t => t.pc == 0x202 && t.sp == 0) = true := by decide

theorem test_T5_ret_underflows : ran (b0) 0x00EE
    (fun t => t.pc == 0x200 && t.halt && t.err == ⟨.stackUnderflow, .none, 0, 0x200⟩) = true := by decide

theorem test_T2_jp_last_byte : ran (b0) 0x1FFF
    (fun t => t.pc == 0xFFF && t.result == .ok) = true := by decide

theorem test_T7_call_fills_stack : ran ({ b0 with sp := 15 }) 0x2300
    (fun t => t.pc == 0x300 && t.sp == 16 && t.stackAt 15 == 0x202) = true := by decide

theorem test_T8_call_overflows : ran ({ b0 with sp := 16 }) 0x2300
    (fun t => t.pc == 0x200 && t.sp == 16 && t.err == ⟨.stackOverflow, .none, 0x10, 0x200⟩) = true := by decide

theorem test_T11_jpV0_not_masked : ran (withRegs [(0, 0xFF)]) 0xBFFF
    (fun t => t.pc == 0x10FE) = true := by decide

theorem test_T12_se_imm_taken : ran (withRegs [(0xA, 5)]) 0x3A05
    (fun t => t.pc == 0x204) = true := by decide

theorem test_T13_se_imm_not_taken : ran (withRegs [(0xA, 6)]) 0x3A05
    (fun t => t.pc == 0x202) = true := by decide

theorem test_T14_sne_imm_not_taken : ran (withRegs [(0xA, 5)]) 0x4A05
    (fun t => t.pc == 0x202) = true := by decide

theorem test_T15_sne_imm_taken : ran (withRegs [(0xA, 6)]) 0x4A05
    (fun t => t.pc == 0x204) = true := by decide

theorem test_T16_se_reg_taken : ran (withRegs [(1, 7), (2, 7)]) 0x5120
    (fun t => t.pc == 0x204) = true := by decide

theorem test_T17_se_reg_not_taken : ran (withRegs [(1, 7), (2, 8)]) 0x5120
    (fun t => t.pc == 0x202) = true := by decide

theorem test_T19_sne_reg_taken : ran (withRegs [(1, 7), (2, 8)]) 0x9120
    (fun t => t.pc == 0x204) = true := by decide

theorem test_T20_sne_reg_not_taken : ran (withRegs [(1, 7), (2, 7)]) 0x9120
    (fun t => t.pc == 0x202) = true := by decide

theorem test_T21_skp_held : ran ({ withRegs [(3, 0xA)] with keys := 0x400 }) 0xE39E
    (fun t => t.pc == 0x204 && t.keyPrev == 0x400) = true := by decide

theorem test_T25_skp_no_such_key : ran ({ withRegs [(3, 0x10)] with keys := 1 }) 0xE39E
    (fun t => t.err == ⟨.outOfBounds, .key, 0x10, 0x200⟩ && t.keyPrev == 0) = true := by decide

theorem test_T23_sknp_held : ran ({ withRegs [(3, 0xA)] with keys := 0x400 }) 0xE3A1
    (fun t => t.pc == 0x202 && t.keyPrev == 0x400) = true := by decide

theorem test_T26_sknp_no_such_key : ran (withRegs [(3, 0xFF)]) 0xE3A1
    (fun t => t.err == ⟨.outOfBounds, .key, 0xFF, 0x200⟩ && t.pc == 0x200) = true := by decide

theorem test_T31_ld_imm_into_flag : ran (b0) 0x6F55
    (fun t => t.getV 0xF == 0x55 && t.pc == 0x202) = true := by decide

theorem test_T32_add_imm_no_carry_flag : ran (withRegs [(0xA, 0xFF)]) 0x7A01
    (fun t => t.getV 0xA == 0 && t.getV 0xF == 0) = true := by decide

theorem test_T34_add_imm_into_flag : ran (withRegs [(0xF, 2)]) 0x7FFF
    (fun t => t.getV 0xF == 1) = true := by decide

theorem test_T35_ld_reg_copies_y : ran (withRegs [(1, 0x11), (2, 0x22)]) 0x8120
    (fun t => t.getV 1 == 0x22 && t.getV 2 == 0x22) = true := by decide

theorem test_T37_or_keeps_flag : ran (withRegs [(1, 0x0F), (2, 0xF0), (0xF, 1)]) 0x8121
    (fun t => t.getV 1 == 0xFF && t.getV 0xF == 1) = true := by decide

theorem test_T38_and_keeps_flag : ran (withRegs [(1, 0x3C), (2, 0x0F), (0xF, 1)]) 0x8122
    (fun t => t.getV 1 == 0x0C && t.getV 0xF == 1) = true := by decide

theorem test_T39_xor_keeps_flag : ran (withRegs [(1, 0xFF), (2, 0x0F), (0xF, 1)]) 0x8123
    (fun t => t.getV 1 == 0xF0 && t.getV 0xF == 1) = true := by decide

theorem test_T55_add_result_lost_in_flag : ran (withRegs [(0xF, 0xF0), (1, 0x20)]) 0x8F14
    (fun t => t.getV 0xF == 1 && t.getV 1 == 0x20) = true := by decide

theorem test_T57_add_reads_old_flag : ran (withRegs [(1, 0xFF), (0xF, 1)]) 0x81F4
    (fun t => t.getV 1 == 0 && t.getV 0xF == 1) = true := by decide

theorem test_T59_sub_borrows : ran (withRegs [(1, 0x0A), (2, 0x14)]) 0x8125
    (fun t => t.getV 1 == 0xF6 && t.getV 0xF == 0) = true := by decide

theorem test_T61_sub_equal_is_no_borrow : ran (withRegs [(1, 0x33), (2, 0x33)]) 0x8125
    (fun t => t.getV 1 == 0 && t.getV 0xF == 1) = true := by decide

theorem test_T70_shr_ignores_y : ran (withRegs [(1, 4), (2, 0xFF)]) 0x8126
    (fun t => t.getV 1 == 2 && t.getV 2 == 0xFF && t.getV 0xF == 0) = true := by decide

theorem test_T73_shr_of_flag : ran (withRegs [(0xF, 3)]) 0x8F06
    (fun t => t.getV 0xF == 1) = true := by decide

theorem test_T65_subn_exchanges_operands : ran (withRegs [(1, 0x0A), (2, 0x14)]) 0x8127
    (fun t => t.getV 1 == 0x0A && t.getV 0xF == 1) = true := by decide

theorem test_T66_subn_borrows : ran (withRegs [(1, 0x14), (2, 0x0A)]) 0x8127
    (fun t => t.getV 1 == 0xF6 && t.getV 0xF == 0) = true := by decide

theorem test_T76_shl_ignores_y : ran (withRegs [(1, 0x7F), (2, 0xFF), (0xF, 1)]) 0x812E
    (fun t => t.getV 1 == 0xFE && t.getV 0xF == 0) = true := by decide

theorem test_T78_shl_of_flag : ran (withRegs [(0xF, 0x80)]) 0x8F0E
    (fun t => t.getV 0xF == 1) = true := by decide

theorem test_T81_ld_i : ran (b0) 0xAFFF
    (fun t => t.i == 0xFFF && t.pc == 0x202) = true := by decide

theorem test_T84_add_i_out_of_range : ran (withRegs [(3, 1)] (withI 0xFFF)) 0xF31E
    (fun t => t.i == 0xFFF && t.err == ⟨.outOfBounds, .index, 0x1000, 0x200⟩) = true := by decide

theorem test_T86_add_i_keeps_flag : ran (withRegs [(0xF, 0xFF)] (withI 0xF00)) 0xFF1E
    (fun t => t.i == 0xFFF && t.getV 0xF == 0xFF) = true := by decide

theorem test_T89_ld_f_last_glyph : ran (withRegs [(1, 0xF)]) 0xF129
    (fun t => t.i == 0x4B) = true := by decide

theorem test_T91_ld_f_whole_byte : ran (withRegs [(1, 0xFF)]) 0xF129
    (fun t => t.i == 0x4FB) = true := by decide

theorem test_T92_ld_b_digits : ran (withRegs [(5, 0x9D)] (withI 0x300)) 0xF533
    (fun t => t.mem.readRange 0x300 3 == [1, 5, 7] && t.i == 0x300) = true := by decide

theorem test_T96_ld_b_past_end : ran (withRegs [(5, 9)] (withI 0xFFE)) 0xF533
    (fun t => t.err == ⟨.outOfBounds, .data, 0x1000, 0x200⟩ && t.mem.read 0xFFF == 0) = true := by decide

theorem test_T98_store_up_to_x : ran (withRegs [(0, 0x11), (1, 0x22), (2, 0x33), (3, 0x44)] (withI 0x400)) 0xF255
    (fun t => t.mem.readRange 0x400 4 == [0x11, 0x22, 0x33, 0] && t.i == 0x400) = true := by decide

theorem test_T100_store_past_end : ran (withRegs [(0, 0x77), (1, 0x88)] (withI 0xFFF)) 0xF155
    (fun t => t.err == ⟨.outOfBounds, .data, 0x1000, 0x200⟩ && t.mem.read 0xFFF == 0) = true := by decide

theorem test_T103_load_up_to_x : ran (withRegs [(2, 0x99)]) 0xF165
    (fun t => t.getV 0 == 0xF0 && t.getV 1 == 0x90 && t.getV 2 == 0x99 && t.i == 0) = true := by decide

theorem test_T105_load_past_end : ran (withRegs [(0, 0x55), (1, 0x55), (2, 0x55)] (withI 0xFFE)) 0xF265
    (fun t => t.err == ⟨.outOfBounds, .data, 0x1000, 0x200⟩ && t.getV 0 == 0x55) = true := by decide

theorem test_T110_rnd_masks : ran ({ b0 with rnd := 0xA7 }) 0xC10F
    (fun t => t.getV 1 == 0x07) = true := by decide

theorem test_T113_rnd_into_flag : ran ({ b0 with rnd := 0xFF }) 0xCFF0
    (fun t => t.getV 0xF == 0xF0) = true := by decide

theorem test_T129_drw_wraps_at_corner : ran (withRegs [(0, 62), (1, 31)] (withI 0x300 (b0.store 0x300 [0xF0, 0xF0]))) 0xD012
    (fun t => lit t == 8 && px t 62 31 && px t 1 31 && px t 63 0 && px t 1 0 && t.getV 0xF == 0 && t.draw) = true := by decide

theorem test_T132_drw_collides_through_wrap : ran ((withRegs [(0, 63)] (withI 0x300 (b0.store 0x300 [0xC0]))).setScreen (Screen.blank.toggle 0 0)) 0xD011
    (fun t => px t 63 0 && !px t 0 0 && t.getV 0xF == 1) = true := by decide

theorem test_T140_ld_vx_dt : ran ({ b0 with dt := 0x3C }) 0xF207
    (fun t => t.getV 2 == 0x3C && t.dt == 0x3C) = true := by decide

theorem test_T146_key_wait_held_key : ran ({ b0 with keyPrev := 0x80, keys := 0x80 }) 0xF50A
    (fun t => t.pc == 0x200 && t.getV 5 == 0) = true := by decide

theorem test_T148_key_wait_lowest_edge : ran ({ b0 with keyPrev := 0x80, keys := 0x288 }) 0xF50A
    (fun t => t.pc == 0x202 && t.getV 5 == 3 && t.keyPrev == 0x288) = true := by decide

theorem test_T141_ld_dt_vx : ran (withRegs [(2, 0x3C)]) 0xF215
    (fun t => t.dt == 0x3C && t.st == 0) = true := by decide

theorem test_T143_ld_st_vx : ran (withRegs [(4, 5)]) 0xF418
    (fun t => t.st == 5 && sound t && t.dt == 0) = true := by decide

theorem test_T164_unknown_changes_nothing : ran (withRegs [(1, 1), (2, 2)]) 0x8128
    (fun t => t.result == .diagnostic ⟨.unknownOpcode, .none, 0x8128, 0x200⟩ && t.pc == 0x202 && t.getV 1 == 1 && !t.halt) = true := by decide

theorem test_T170_unknown_at_top : ran ({ b0 with pc := 0xFFE }) 0x0000
    (fun t => t.pc == 0x1000 && t.result == .diagnostic ⟨.unknownOpcode, .none, 0, 0xFFE⟩) = true := by decide

theorem test_T171_fetch_at_last_byte : ran ({ b0 with pc := 0xFFF }) 0x0000
    (fun t => t.pc == 0xFFF && t.err == ⟨.outOfBounds, .fetch, 0xFFF, 0xFFF⟩) = true := by decide

theorem test_T173_fetch_above_memory : ran ({ b0 with pc := 0x10FE }) 0x0000
    (fun t => t.err == ⟨.outOfBounds, .fetch, 0x10FE, 0x10FE⟩) = true := by decide

theorem test_T175_odd_pc : ran ({ b0 with pc := 0x201 }) 0x6A01
    (fun t => t.getV 0xA == 1 && t.pc == 0x203) = true := by decide

/-! ### Events -/

theorem test_T180_tick_both : took (.timerTick) ({ b0 with dt := 2, st := 1 })
    (fun t => t.dt == 1 && t.st == 0) = true := by decide

theorem test_T182_tick_at_zero : took (.timerTick) (b0)
    (fun t => t.dt == 0 && t.st == 0) = true := by decide

theorem test_T185_tick_while_halted : took (.timerTick) ({ b0 with halt := true, dt := 5, st := 5 })
    (fun t => t.dt == 4 && t.st == 4 && t.halt) = true := by decide

theorem test_T187_reset_from_halt : took (.reset) ({ withRegs [(1, 1)] (withI 0x300) with halt := true, sp := 3, pc := 0x10FE, mem := [(0x300, 7)] })
    (fun t => t.getV 1 == 0 && t.i == 0 && t.pc == 0x200 && t.sp == 0 && t.mem == [] && t.draw && !t.halt) = true := by decide

theorem test_T191_load_two_bytes : took (.load [0x12, 0x00]) (b0)
    (fun t => t.mem.read 0x200 == 0x12 && fetch t == some 0x1200 && t.result == .loadAccepted) = true := by decide

theorem test_T189_load_too_long : took (.load (List.replicate 3585 0xAB)) (b0)
    (fun t => t.mem == [] && t.result == .programTooLarge && !t.halt) = true := by decide +kernel

theorem test_T192_fb_read : took (.fbRead) (State.reset)
    (fun t => t.result == .snapshot Screen.blank true && !t.draw) = true := by decide

theorem test_status_read_reports_sound : took (.statusRead) ({ b0 with st := 4 })
    (fun t => t.result == .status true false ErrRec.clear) = true := by decide

theorem test_T174_halted_unit_has_no_cycle :
    step { State.reset with halt := true, script := [.cycle 2 0] } = .fault (.halted ErrRec.clear) := rfl

theorem test_load_after_a_cycle_is_refused :
    step { State.reset with loadable := false, script := [.load [1]] } = .refused .loadAfterFirstCycle := rfl

theorem test_reset_holds_glyph_zero :
    State.reset.mem.readRange 0 5 = [0xF0, 0x90, 0x90, 0x90, 0xF0] := by decide

theorem test_write_keeps_canonical_form :
    Memory.write (Memory.write (Memory.write [] 0x300 7) 0x200 9) 0x300 0 = [(0x200, 9)] := by decide

/-! ### Witnesses: for each obligation with hypotheses, a state and operands that meet them together, at boundary values -/

/-- The next event is a cycle with nothing held. -/
def cyc (s : State) : State := { s with script := [.cycle 0 0] }

theorem witness_DecodeInvertsEncode : Instr.wf (.drw 0xF 0xF 15) = true := by decide

theorem witness_EncodeInvertsDecode : decode 0xD12F = .instr (.drw 1 2 15) := by decide

theorem witness_FetchReadsTwoBytesOrHalts :
    ({ b0 with pc := 0xFFE }).pc.toNat + 1 ≤ 0xFFF ∧ 0xFFF < ({ b0 with pc := 0xFFF }).pc.toNat + 1 ∧
      Running { b0 with pc := 0xFFF } := ⟨by decide, by decide, rfl⟩

theorem witness_StepRunsDecodedInstruction :
    let s := (b0.store 0xFFE [0x6A, 0x01]).setPc 0xFFE
    nextEvent (cyc s) = .cycle 0 0 ∧ Running (cyc s) ∧ (cyc s).pc.toNat + 1 ≤ 0xFFF ∧
      decode ((cyc s).mem.read (cyc s).pc.toNat ++ (cyc s).mem.read ((cyc s).pc.toNat + 1)) = .instr (.ldImm 0xA 1) :=
  ⟨rfl, rfl, by decide, by decide⟩

theorem witness_StepReportsUnknownOpcode :
    nextEvent (cyc b0) = .cycle 0 0 ∧ Running (cyc b0) ∧ (cyc b0).pc.toNat + 1 ≤ 0xFFF ∧
      decode ((cyc b0).mem.read (cyc b0).pc.toNat ++ (cyc b0).mem.read ((cyc b0).pc.toNat + 1)) = .unknown 0 :=
  ⟨rfl, rfl, by decide, by decide⟩

theorem witness_HaltedUnitHasNoCycle :
    nextEvent (cyc { b0 with halt := true }) = .cycle 0 0 ∧ (cyc { b0 with halt := true }).halt = true := ⟨rfl, rfl⟩

theorem witness_OnlyResetLeavesHalt :
    let s := { b0 with halt := true, dt := 5, script := [.timerTick] }
    s.halt = true ∧ (∃ t, step s = .next t) ∧ nextEvent s ≠ .reset := ⟨rfl, ⟨_, rfl⟩, by decide⟩

/-- Both clauses: an instruction that completes, and one that raises a Fatal. -/
theorem witness_CycleRecordsKeys :
    (∃ t, nextEvent (cyc b0) = .cycle 0 0 ∧ step (cyc b0) = .next t ∧ t.halt = false) ∧
    (∃ t, nextEvent (cyc (b0.setPc 0xFFF)) = .cycle 0 0 ∧ step (cyc (b0.setPc 0xFFF)) = .next t ∧ t.halt = true) :=
  ⟨⟨_, rfl, rfl, rfl⟩, ⟨_, rfl, rfl, rfl⟩⟩

theorem witness_TimerTickCountsBothDown : nextEvent { b0 with script := [.timerTick] } = .timerTick := rfl

theorem witness_TicksInARowSaturateAtZero :
    ({ b0 with dt := 1, script := [.timerTick, .timerTick, .reset] }).script = List.replicate 2 .timerTick ++ [.reset] := rfl

theorem witness_ResetWritesEveryElement : nextEvent { b0 with halt := true, script := [.reset] } = .reset := rfl

/-- Both clauses: LOAD_MAX bytes, and one more. -/
theorem witness_LoadPlacesImageOrRejects :
    (∀ n, nextEvent { b0 with script := [.load (List.replicate n 0xAB)] } = .load (List.replicate n 0xAB)) ∧
    b0.loadable = true ∧ Running b0 ∧ b0.mem.wf = true ∧
    (List.replicate 3584 (0xAB : Byte)).length ≤ 3584 ∧ 3584 < (List.replicate 3585 (0xAB : Byte)).length :=
  ⟨fun _ => rfl, rfl, rfl, rfl, by rw [List.length_replicate], by rw [List.length_replicate]; decide⟩

/-- A Load after a cycle, a Load while halted, and a cycle that answers a next state. -/
theorem witness_LoadIsRefusedOnceCyclesRan :
    nextEvent { b0 with loadable := false, script := [.load [1]] } = .load [1] ∧
    nextEvent { b0 with halt := true, script := [.load [1]] } = .load [1] ∧
    nextEvent (cyc b0) = .cycle 0 0 ∧ ∃ t, step (cyc b0) = .next t := ⟨rfl, rfl, rfl, _, rfl⟩

theorem witness_HostReadsAnswerAndChangeNothingElse :
    nextEvent { b0 with script := [.fbRead] } = .fbRead ∧ nextEvent { b0 with script := [.statusRead] } = .statusRead := ⟨rfl, rfl⟩

/-- The clause about the last byte of memory, whose target is the greatest one. -/
theorem witness_JumpSetsPc : (0xFFF : Addr12) = 0xFFF ∧ Running b0 := ⟨rfl, rfl⟩

theorem witness_CallPushesThenJumps : ({ b0 with sp := 15 }).sp < 16 ∧ ({ b0 with sp := 16 }).sp = 16 := by decide

/-- Each clause: a frame to return to, an empty stack, a CALL at 0xFFE whose entry is the one on top, and a return to 0x1000. -/
theorem witness_ReturnPopsPc :
    let c := { b0 with pc := 0xFFE, sp := 15 }
    ∃ d, c.sp < 16 ∧ exec (.call 0x300) c = .next d ∧ 0 < d.sp ∧ d.sp = c.sp + 1 ∧ d.stackAt c.sp = d.stackAt c.sp ∧
      c.pc.toNat ≤ 0xFFE ∧ d.stackAt (d.sp - 1) = 0x1000 ∧ Running d ∧ b0.sp = 0 :=
  ⟨_, by decide, rfl, by decide, rfl, rfl, by decide, by decide, rfl, rfl⟩

theorem witness_CallThenReturnComesBack :
    ∃ t, ({ b0 with sp := 15 }).sp < 16 ∧ exec (.call 0x300) { b0 with sp := 15 } = .next t ∧
      ({ b0 with stack := t.stack, sp := t.sp }).stack = t.stack ∧ ({ b0 with stack := t.stack, sp := t.sp }).sp = t.sp :=
  ⟨_, by decide, rfl, rfl, rfl⟩

theorem witness_SkipOnKeyLevel :
    ((withRegs [(3, 0xF)]).getV 3).toNat ≤ 0xF ∧ 0xF < ((withRegs [(3, 0x10)]).getV 3).toNat := by decide

/-- The premise `x ≠ 0xF` of the sum, the differences and the shifts. -/
theorem witness_destination_other_than_flag : (0xE : Reg) ≠ 0xF := by decide

theorem witness_AddIndexIsExactOrFatal :
    (withI 0xFFF).i.toNat ≤ 0xFFF ∧ (withI 0xFFF).i.toNat + ((withI 0xFFF).getV 3).toNat ≤ 0xFFF ∧
    0xFFF < (withRegs [(3, 1)] (withI 0xFFF)).i.toNat + ((withRegs [(3, 1)] (withI 0xFFF)).getV 3).toNat := by decide

theorem witness_DecimalStoreWritesDigits :
    b0.mem.wf = true ∧ (withI 0xFFD).i.toNat + 2 ≤ 0xFFF ∧ 0xFFF < (withI 0xFFE).i.toNat + 2 := by decide

theorem witness_StoreRegistersWritesThem :
    b0.mem.wf = true ∧ (withI 0xFF0).i.toNat + (0xF : Reg).val ≤ 0xFFF ∧ 0xFFF < (withI 0xFF1).i.toNat + (0xF : Reg).val := by
  decide

theorem witness_LoadRegistersReadsThem :
    (withI 0xFFF).i.toNat + (0 : Reg).val ≤ 0xFFF ∧ 0xFFF < (withI 0xFFF).i.toNat + (1 : Reg).val := by decide

theorem witness_LoadUndoesStore :
    let s := withRegs [(0, 0x77)] (withI 0xFFF)
    ∃ t, s.mem.wf = true ∧ s.i.toNat + (0 : Reg).val ≤ 0xFFF ∧ exec (.storeRegs 0) s = .next t ∧
      ({ b0 with mem := t.mem, i := s.i }).mem = t.mem ∧ ({ b0 with mem := t.mem, i := s.i }).i = s.i :=
  ⟨_, rfl, by decide, rfl, rfl, rfl⟩

/-- Both clauses at the top of memory, with a fetch of the two last bytes. -/
theorem witness_StoreIsSeenByNextFetch :
    ∃ t u, b0.mem.wf = true ∧ (withI 0xFF0).i.toNat + (0xF : Reg).val ≤ 0xFFF ∧ (withI 0xFFD).i.toNat + 2 ≤ 0xFFF ∧
      exec (.storeRegs 0xF) (withI 0xFF0) = .next t ∧ exec (.ldB 0) (withI 0xFFD) = .next u ∧
      (t.setPc 0xFFE).mem = t.mem ∧ (u.setPc 0xFFE).mem = u.mem ∧ (t.setPc 0xFFE).pc.toNat + 1 ≤ 0xFFF :=
  ⟨_, _, rfl, by decide, by decide, rfl, rfl, rfl, rfl, by decide⟩

/-- No row at the top of memory, fifteen rows that end at 0xFFF, and fifteen that pass it. -/
theorem witness_DrawTogglesCoveredPixels :
    15 < 16 ∧ ((0 : Nat) = 0 ∨ (withI 0xFFF).i.toNat + 0 - 1 ≤ 0xFFF) ∧ (withI 0xFF1).i.toNat + 15 - 1 ≤ 0xFFF ∧
    0 < 15 ∧ 0xFFF < (withI 0xFF2).i.toNat + 15 - 1 := by decide

theorem witness_DrawingTwiceRestoresScreen :
    ∃ t u, (1 < 16) ∧ (0 : Reg) ≠ 0xF ∧ (1 : Reg) ≠ 0xF ∧ (1 = 0 ∨ b0.i.toNat + 1 - 1 ≤ 0xFFF) ∧
      exec (.drw 0 1 1) b0 = .next t ∧ exec (.drw 0 1 1) t = .next u ∧ b0.fb = Screen.blank :=
  ⟨_, _, by decide, by decide, by decide, by decide, rfl, rfl, rfl⟩

theorem witness_KeyWaitTakesLowestEdge :
    ¬ someEdge { b0 with keyPrev := 0x8000, keys := 0x8000 } ∧ someEdge { b0 with keys := 0x8000 } := by
  refine ⟨?_, 15, by decide⟩
  rintro ⟨k, hk, h1, h2⟩
  simp_all

theorem witness_HeldKeyDoesNotEndKeyWait :
    let s := { b0.store 0x200 [0xF5, 0x0A] with keyPrev := 0x80, script := [.cycle 0x80 0] }
    nextEvent s = .cycle 0x80 0 ∧ Running s ∧ s.pc.toNat + 1 ≤ 0xFFF ∧
      decode (s.mem.read s.pc.toNat ++ s.mem.read (s.pc.toNat + 1)) = .instr (.ldVxK 5) ∧
      ∀ k, (0x80 : Keys).getLsbD k = true → s.keyPrev.getLsbD k = true :=
  ⟨rfl, rfl, by decide, by decide, fun _ h => h⟩

/-- An arithmetic instruction and a load that write `VF`. -/
theorem witness_FlagIsWrittenBySixOnly :
    (∃ t, exec (.subReg 0 1) b0 = .next t ∧ t.getV 0xF ≠ b0.getV 0xF) ∧
    (∃ t, exec (.ldImm 0xF 1) b0 = .next t ∧ t.getV 0xF ≠ b0.getV 0xF) := ⟨⟨_, rfl, by decide⟩, ⟨_, rfl, by decide⟩⟩

/-- Each clause: an instruction that writes `I`, and one that writes `SP` and the stack. -/
theorem witness_IndexAndStackHaveFewWriters :
    (∃ t, exec (.ldI 1) b0 = .next t ∧ t.i ≠ b0.i) ∧
    (∃ t, exec (.call 0x300) b0 = .next t ∧ t.sp ≠ b0.sp ∧ t.stack ≠ b0.stack) :=
  ⟨⟨_, rfl, by decide⟩, ⟨_, rfl, by decide, by decide⟩⟩

/-- Each clause: memory, `DT`, `ST`, and `DRAW`. -/
theorem witness_MemoryTimersScreenHaveFewWriters :
    (∃ t, exec (.ldB 0) (withRegs [(0, 1)]) = .next t ∧ t.mem ≠ (withRegs [(0, 1)]).mem) ∧
    (∃ t, exec (.ldDtVx 0) (withRegs [(0, 1)]) = .next t ∧ t.dt ≠ (withRegs [(0, 1)]).dt) ∧
    (∃ t, exec (.ldStVx 0) (withRegs [(0, 1)]) = .next t ∧ t.st ≠ (withRegs [(0, 1)]).st) ∧
    (∃ t, exec .cls b0 = .next t ∧ t.draw ≠ b0.draw) :=
  ⟨⟨_, rfl, by decide⟩, ⟨_, rfl, by decide⟩, ⟨_, rfl, by decide⟩, ⟨_, rfl, by decide⟩⟩

/-- A running state in which the instruction's check fails, and one in which it does not, at the boundary of each check. -/
theorem witness_FatalExactlyWhenChecksFail :
    Running b0 ∧ raisesFatal .ret b0 ∧ ¬ raisesFatal (.call 0) { b0 with sp := 15 } ∧ raisesFatal (.call 0) { b0 with sp := 16 } ∧
    ¬ raisesFatal (.ldB 0) (withI 0xFFD) ∧ raisesFatal (.ldB 0) (withI 0xFFE) ∧
    ¬ raisesFatal (.drw 0 0 0) (withI 0xFFF) ∧ raisesFatal (.drw 0 0 2) (withI 0xFFF) :=
  ⟨rfl, rfl, by simp [raisesFatal], by simp [raisesFatal], by simp only [raisesFatal]; decide,
    by simp only [raisesFatal]; decide, by simp only [raisesFatal]; decide, by simp only [raisesFatal]; decide⟩

theorem witness_FatalErrorsArePrecise : Running b0 ∧ ∃ t, exec .ret b0 = .next t ∧ t.halt = true := ⟨rfl, _, rfl, rfl⟩

/-- Each clause: a Fatal, a transfer, a skip, a key-wait without an edge, and an instruction that goes on. -/
theorem witness_PcFollowsItsPolicy :
    Running b0 ∧ (∃ t, exec .ret b0 = .next t ∧ t.halt = true) ∧
    (∃ t, exec (.jp 1) b0 = .next t ∧ t.halt = false ∧ transferTarget (.jp 1) b0 = some 1) ∧
    (∃ t, exec (.seImm 0 0) b0 = .next t ∧ t.halt = false ∧ skipCondition (.seImm 0 0) b0 = some true) ∧
    (∃ t, exec (.ldVxK 0) b0 = .next t ∧ t.halt = false ∧ ¬ someEdge b0) ∧
    (∃ t, exec .cls b0 = .next t ∧ t.halt = false ∧ transferTarget .cls b0 = none ∧ skipCondition .cls b0 = none) :=
  ⟨rfl, ⟨_, rfl, rfl⟩, ⟨_, rfl, rfl, rfl⟩, ⟨_, rfl, rfl, rfl⟩, ⟨_, rfl, rfl, fun ⟨_, _, h, _⟩ => by simp [b0, State.reset] at h⟩,
    ⟨_, rfl, rfl, rfl, rfl⟩⟩

/-- A running state with one frame on the stack, about to run a cycle, and a halted one, about to tick. -/
theorem witness_EveryStepKeepsInvariant :
    let s := cyc { b0 with i := 0xFFF, sp := 1, stack := b0.stack.set 0 0x1000, pc := 0xFFE, mem := [(0x300, 7)] }
    let u := { b0 with halt := true, err := ⟨.stackUnderflow, .none, 0, 0x200⟩, script := [.timerTick] }
    StateInv s ∧ (∃ t, step s = .next t) ∧ StateInv u ∧ ∃ t, step u = .next t := by
  refine ⟨⟨by decide, by decide, by decide, by decide, by decide, fun _ => rfl, fun h => (by cases h)⟩, ⟨_, rfl⟩,
    ⟨by decide, by decide, by decide, by decide, by decide, fun h => (by cases h), fun _ => ⟨rfl, rfl⟩⟩, ⟨_, rfl⟩⟩

end Sys2Proof.Tests
end

section
/-! SUPPORT. Control flow (41_control_flow.md R141 to R148): what RET, CALL and the skips answer on each side of their check, the
frames of the stack's operations, the fetch fault of the cycle that follows a transfer, and the obligations about them. -/

namespace Sys2Proof.Machine

/-! ### Transfer targets and the next fetch -/

/-- A 12-bit target keeps its value in `PC` (R93). -/
@[simp] theorem targetOf_toNat (nnn : Addr12) : (targetOf nnn).toNat = nnn.toNat :=
  BitVec.toNat_setWidth_of_le (by decide)

/-- A running unit whose opcode is not wholly inside `MEM` raises the fetch error in its next cycle (R122). -/
theorem cycle_of_pc_out {s : State} (hs : Running s) (hp : 0xFFF < s.pc.toNat + 1) (keys : Keys) (rnd : Byte) :
    cycle keys rnd s = .next (raiseFatal .outOfBounds .fetch s.pc (beginCycle keys rnd s)) := by
  have hf : fetch s = none := by rw [fetch_eq, if_neg (Nat.not_le.mpr hp)]
  rw [Running] at hs
  simp [cycle, hs, hf]

/-- The same, for a `PC` whose value is known: the error's info is that value. -/
theorem cycle_isFatal_of_pc_eq {s : State} {w : Word} (hs : Running s) (hpc : s.pc = w) (hw : 0xFFF < w.toNat + 1)
    (keys : Keys) (rnd : Byte) :
    ∃ u, cycle keys rnd s = .next u ∧ IsFatal .outOfBounds .fetch w (beginCycle keys rnd s) u := by
  subst hpc
  exact ⟨_, cycle_of_pc_out hs hw keys rnd, raiseFatal_isFatal ..⟩

/-! ### The stack's operations -/

/-- A push writes the entry at `SP`, and `SP` (R143). -/
theorem push_frame (s : State) (w : Word) : Frame (fun e => e = .stack s.sp ∨ e = .sp) s (s.push w) := fun e he => by
  cases e with
  | stack k =>
    have hk : k ≠ s.sp := fun h => he (.inl (by rw [h]))
    exact (stackAt_push s w k).trans (if_neg fun h => hk h.1)
  | sp => exact absurd (.inr rfl) he
  | _ => rfl

/-- A push and then a transfer write the entry, `SP` and `PC` (R143). -/
theorem push_setPc_frame (s : State) (w target : Word) :
    Frame (fun e => e = .stack s.sp ∨ e = .sp ∨ e = .pc) s ((s.push w).setPc target) := by
  have hpush := (push_frame s w).mono (may' := fun e => (e = .stack s.sp ∨ e = .sp) ∨ e = .pc) fun _ => .inl
  have hjump := (setPc_frame (s.push w) target).mono (may' := fun e => (e = .stack s.sp ∨ e = .sp) ∨ e = .pc) fun _ => .inr
  exact (hpush.trans hjump).mono fun _ => or_assoc.mp

/-- A pop writes `SP` and `PC`; the stack keeps every entry (R141). -/
theorem popPc_frame (s : State) : Frame (fun e => e = .sp ∨ e = .pc) s s.popPc := fun e he => by
  cases e with
  | sp => exact absurd (.inl rfl) he
  | pc => exact absurd (.inr rfl) he
  | _ => rfl

/-! ### CALL (R143) -/

theorem exec_call_of_lt (nnn : Addr12) {s : State} (h : s.sp < 16) :
    exec (.call nnn) s = .next ((s.push (s.pc + 2)).setPc (targetOf nnn)) :=
  congrArg Host.Outcome.next (if_pos h)

theorem exec_call_of_full (nnn : Addr12) {s : State} (h : 16 ≤ s.sp) :
    exec (.call nnn) s = .next (raiseFatal .stackOverflow .none 16 s) :=
  congrArg Host.Outcome.next (if_neg (Nat.not_lt.mpr h))

/-- The entry a CALL pushes is the address of the opcode after it. -/
theorem stackAt_sp_of_exec_call {nnn : Addr12} {s t : State} (h : s.sp < 16) (hc : exec (.call nnn) s = .next t) :
    t.stackAt s.sp = s.pc + 2 := by
  rw [exec_call_of_lt nnn h] at hc
  cases hc
  exact (stackAt_push s (s.pc + 2) s.sp).trans (if_pos ⟨rfl, h⟩)

/-- Settles O19: on each side of a full stack, CALL is a push and a transfer, or the overflow. -/
theorem callPushesThenJumps : Obligations.CallPushesThenJumps := by
  intro nnn s
  refine ⟨rfl, fun hlt => ?_, fun hfull => ?_⟩
  · have hexec := exec_call_of_lt nnn hlt
    exact ⟨_, hexec, stackAt_sp_of_exec_call hlt hexec, rfl, targetOf_toNat nnn, push_setPc_frame s _ _⟩
  · exact ⟨_, exec_call_of_full nnn hfull.ge, raiseFatal_isFatal ..⟩

/-! ### RET (R141) -/

theorem exec_ret_of_pos {s : State} (h : 0 < s.sp) : exec .ret s = .next s.popPc :=
  congrArg Host.Outcome.next (if_neg h.ne')

theorem exec_ret_of_empty {s : State} (h : s.sp = 0) : exec .ret s = .next (raiseFatal .stackUnderflow .none 0 s) :=
  congrArg Host.Outcome.next (if_pos h)

/-- A pop above the entry a CALL pushed, still there, takes `PC` to the opcode after that CALL. -/
theorem popPc_pc_of_exec_call {nnn : Addr12} {s c d : State} (h : c.sp < 16) (hc : exec (.call nnn) c = .next d)
    (hsp : s.sp = c.sp + 1) (hentry : s.stackAt c.sp = d.stackAt c.sp) : s.popPc.pc = c.pc + 2 := by
  rw [State.popPc_pc, hsp, Nat.add_sub_cancel, hentry, stackAt_sp_of_exec_call h hc]

/-- A fetched opcode lies at 0xFFE or below, so what a CALL pushes is at most 0x1000. -/
theorem pc_add_two_toNat_le {pc : Word} (h : pc.toNat ≤ 0xFFE) : (pc + 2).toNat ≤ 0x1000 := by bv_omega

/-- Settles O20: on each side of an empty stack, RET is a pop, read against the CALL that pushed and the next fetch, or the
underflow. -/
theorem returnPopsPc : Obligations.ReturnPopsPc := by
  intro s
  refine ⟨rfl, fun hpos => ⟨s.popPc, exec_ret_of_pos hpos, rfl, rfl, popPc_frame s, ?_, ?_⟩, fun hempty => ?_⟩
  · intro nnn c d hroom hcall hsp hentry
    have hpc := popPc_pc_of_exec_call hroom hcall hsp hentry
    exact ⟨hpc, fun hfetched => hpc ▸ pc_add_two_toNat_le hfetched⟩
  · intro htop hrun
    exact cycle_isFatal_of_pc_eq (s := s.popPc) hrun htop (by decide)
  · exact ⟨_, exec_ret_of_empty hempty, raiseFatal_isFatal ..⟩

/-! ### JP (R142) -/

/-- Settles O18: JP is a transfer, and a transfer to the last byte of memory leaves no whole opcode to fetch. -/
theorem jumpSetsPc : Obligations.JumpSetsPc := by
  intro nnn s
  refine ⟨rfl, s.setPc (targetOf nnn), rfl, targetOf_toNat nnn, setPc_frame s _, fun hlast hrun => ?_⟩
  exact cycle_isFatal_of_pc_eq (s := s.setPc (targetOf nnn)) hrun (congrArg targetOf hlast) (by decide)

/-! ### The skips on two bytes (R145 to R148) -/

/-- Skipping moves `PC` and nothing else. -/
theorem skipIf_frame (s : State) (c : Bool) : Frame (fun e => e = .pc) s (s.skipIf c) := setPc_frame s _

/-- A skip on equality goes 4 on when the bytes are equal. -/
theorem skipIf_beq_pc (s : State) (a b : Byte) : (s.skipIf (a == b)).pc = s.pc + (if a = b then 4 else 2) := by
  by_cases h : a = b <;> simp [h]

/-- A skip on difference goes 4 on when the bytes differ. -/
theorem skipIf_bne_pc (s : State) (a b : Byte) : (s.skipIf (a != b)).pc = s.pc + (if a = b then 2 else 4) := by
  by_cases h : a = b <;> simp [h]

/-- Settles O23: both are a skip on two bytes, a register and the immediate. -/
theorem skipOnImmediate : Obligations.SkipOnImmediate := fun x nn s =>
  ⟨rfl, rfl, ⟨_, rfl, skipIf_beq_pc s (s.getV x) nn, skipIf_frame s _⟩,
    ⟨_, rfl, skipIf_bne_pc s (s.getV x) nn, skipIf_frame s _⟩⟩

/-- Settles O24: both are a skip on two bytes, two registers. -/
theorem skipOnRegisters : Obligations.SkipOnRegisters := fun x y s =>
  ⟨rfl, rfl, ⟨_, rfl, skipIf_beq_pc s (s.getV x) (s.getV y), skipIf_frame s _⟩,
    ⟨_, rfl, skipIf_bne_pc s (s.getV x) (s.getV y), skipIf_frame s _⟩⟩

end Sys2Proof.Machine
end

section
/-! SUPPORT. Register operations (42_register_ops.md R161 to R163): what one register written and `PC` advanced leaves behind, which
instructions answer exactly that, and the obligations about them. -/

namespace Sys2Proof.Machine

/-! ### One register, then the next instruction -/

/-- The register just written reads back what was written, for every register, `VF` included. -/
@[simp] theorem getV_setV_advance_self (s : State) (x : Reg) (b : Byte) : (s.setV x b).advance.getV x = b :=
  (getV_congr rfl x).trans (getV_setV_self s x b)

/-- A register written and then the advance write that register and `PC` (R160). -/
theorem setV_advance_frame (s : State) (x : Reg) (b : Byte) :
    Frame (fun e => e = .v x ∨ e = .pc) s (s.setV x b).advance :=
  ((setV_frame s x b).mono fun _ => .inl).trans ((advance_frame (s.setV x b)).mono fun _ => .inr)

/-! ### LD (R161, R163) -/

theorem exec_ldImm (x : Reg) (nn : Byte) (s : State) : exec (.ldImm x nn) s = .next (s.setV x nn).advance := rfl

theorem exec_ldReg (x y : Reg) (s : State) : exec (.ldReg x y) s = .next (s.setV x (s.getV y)).advance := rfl

/-- Settles O26: both are one register written, with the immediate or with the other register, and the advance. -/
theorem loadsWriteOneRegister : Obligations.LoadsWriteOneRegister := fun x y nn s =>
  ⟨rfl, rfl,
    ⟨_, exec_ldImm x nn s, getV_setV_advance_self s x nn, rfl, setV_advance_frame s x nn⟩,
    ⟨_, exec_ldReg x y s, getV_setV_advance_self s x (s.getV y), rfl, setV_advance_frame s x (s.getV y)⟩⟩

/-! ### ADD with an immediate (R162) -/

theorem exec_addImm (x : Reg) (nn : Byte) (s : State) :
    exec (.addImm x nn) s = .next (s.setV x (s.getV x + nn)).advance := rfl

/-- Settles O27: the register written receives the sum of two bytes, which wraps, and the frame leaves no flag. -/
theorem addImmediateWrapsWithoutFlag : Obligations.AddImmediateWrapsWithoutFlag := by
  intro x nn s
  refine ⟨rfl, _, exec_addImm x nn s, ?_, rfl, setV_advance_frame s x _⟩
  rw [getV_setV_advance_self]
  exact BitVec.toNat_add (s.getV x) nn

end Sys2Proof.Machine
end

section
/-! SUPPORT. The index register and memory (44_index_memory.md R181, R184): what `I` written, or a range stored, and `PC` advanced
leave behind, what FX33 answers on each side of its range check, and the obligations about them. -/

namespace Sys2Proof.Machine

/-! ### The index register, then the next instruction -/

/-- Writing `I` writes nothing else (R25). -/
theorem setI_frame (s : State) (w : Word) : Frame (fun e => e = .i) s (s.setI w) := fun e he => by
  cases e with
  | i => exact absurd rfl he
  | _ => rfl

/-- `I` written and then the advance write `I` and `PC`. -/
theorem setI_advance_frame (s : State) (w : Word) : Frame (fun e => e = .i ∨ e = .pc) s (s.setI w).advance :=
  ((setI_frame s w).mono fun _ => .inl).trans ((advance_frame (s.setI w)).mono fun _ => .inr)

theorem exec_ldI (nnn : Addr12) (s : State) : exec (.ldI nnn) s = .next (s.setI (targetOf nnn)).advance := rfl

/-- Settles O32: LD I is `I` written with the zero-extended address, and the advance. -/
theorem loadIndexSetsI : Obligations.LoadIndexSetsI := fun nnn s =>
  ⟨rfl, _, exec_ldI nnn s, targetOf_toNat nnn, rfl, setI_advance_frame s _⟩

/-! ### A range stored, then the next instruction -/

/-- A range stored and then the advance write the bytes of the range and `PC` (R63). -/
theorem store_advance_frame (s : State) (a : Nat) (bytes : List Byte) :
    Frame (fun e => (∃ k, k < bytes.length ∧ e = .mem (a + k)) ∨ e = .pc) s (s.store a bytes).advance :=
  ((store_frame s a bytes).mono fun _ => .inl).trans ((advance_frame (s.store a bytes)).mono fun _ => .inr)

/-! ### LD B (R184) -/

/-- No digit of a byte exceeds a byte: as a number each digit is its own quotient or remainder, hundreds first. -/
theorem decimalDigits_toNat (v : Byte) (k : Nat) (hk : k < 3) :
    ((decimalDigits v)[k]'hk).toNat = [v.toNat / 100, v.toNat / 10 % 10, v.toNat % 10][k] := by
  have hv := v.isLt
  have hundreds : v.toNat / 100 < 2 ^ 8 := by omega
  have tens : v.toNat / 10 % 10 < 2 ^ 8 := by omega
  have units : v.toNat % 10 < 2 ^ 8 := by omega
  match k, hk with
  | 0, _ => exact Nat.mod_eq_of_lt hundreds
  | 1, _ => exact Nat.mod_eq_of_lt tens
  | 2, _ => exact Nat.mod_eq_of_lt units

theorem exec_ldB_of_in (x : Reg) {s : State} (h : s.i.toNat + 2 ≤ 0xFFF) :
    exec (.ldB x) s = .next (s.store s.i.toNat (decimalDigits (s.getV x))).advance :=
  congrArg Host.Outcome.next (ifDataInMemory_of_in _ (.inr (by omega)))

theorem exec_ldB_of_out (x : Reg) {s : State} (h : 0xFFF < s.i.toNat + 2) :
    exec (.ldB x) s = .next (raiseFatal .outOfBounds .data 0x1000 s) :=
  congrArg Host.Outcome.next (ifDataInMemory_of_out _ (by decide) (by omega))

/-- Once the digits are stored at `a`, the byte at `a + k` is the `k`-th of them. -/
theorem read_store_decimalDigits {s : State} (hm : s.mem.wf = true) {a : Nat} (h : a + 2 ≤ 0xFFF) (v : Byte) (k : Nat)
    (hk : k < 3) :
    ((s.store a (decimalDigits v)).mem.read (a + k)).toNat = [v.toNat / 100, v.toNat / 10 % 10, v.toNat % 10][k] := by
  have hin : a + (decimalDigits v).length ≤ 0x1000 := show a + 3 ≤ 0x1000 by omega
  rw [State.store_mem, Memory.read_writeRange_inside hm (decimalDigits v) hin k hk]
  exact decimalDigits_toNat v k hk

/-- Storing the three digits at `a` and advancing writes three bytes and `PC`. -/
theorem store_decimalDigits_advance_frame (s : State) (a : Nat) (v : Byte) :
    Frame (fun e => e = .mem a ∨ e = .mem (a + 1) ∨ e = .mem (a + 2) ∨ e = .pc) s
      (s.store a (decimalDigits v)).advance := by
  refine (store_advance_frame s a (decimalDigits v)).mono fun e he => ?_
  rcases he with ⟨k, hk, rfl⟩ | rfl
  · have hk : k < 3 := hk
    interval_cases k <;> simp
  · simp

/-- Settles O35: on each side of the range check, LD B stores the digits and advances, or is the data error. -/
theorem decimalStoreWritesDigits : Obligations.DecimalStoreWritesDigits := by
  intro x s hm
  refine ⟨rfl, fun hin => ?_, fun hout => ?_⟩
  · have hdigit := read_store_decimalDigits hm hin (s.getV x)
    exact ⟨_, exec_ldB_of_in x hin, hdigit 0 (by decide), hdigit 1 (by decide), hdigit 2 (by decide), rfl,
      store_decimalDigits_advance_frame s _ _⟩
  · exact ⟨_, exec_ldB_of_out x hout, raiseFatal_isFatal ..⟩

end Sys2Proof.Machine
end

section
/-! SUPPORT. The random instruction (45_random.md R190): what it answers, and the obligation about it. -/

namespace Sys2Proof.Machine

/-- RND writes the state's random byte, masked, and advances (R190). -/
theorem exec_rnd (x : Reg) (nn : Byte) (s : State) : exec (.rnd x nn) s = .next (s.setV x (s.rnd &&& nn)).advance := rfl

/-- Settles O40: RND is one register written with the masked byte, and the advance; the byte is the one the cycle began with
(log 2). -/
theorem randomIsMasked : Obligations.RandomIsMasked := by
  intro x nn rnd keys s
  refine ⟨rfl, _, exec_rnd x nn (beginCycle keys rnd s), ?_, rfl, setV_advance_frame _ x _⟩
  rw [getV_setV_advance_self, beginCycle_rnd]

end Sys2Proof.Machine
end

section
/-! SUPPORT. The timers (47_timers_keys.md R210 to R212): what a timer written and `PC` advanced leaves behind, what a row of ticks
leaves of `ST` and so of `SOUND`, and the obligation about them. -/

namespace Sys2Proof.Machine

/-! ### A timer, then the next instruction -/

/-- Writing `DT` writes nothing else (R211). -/
theorem setDt_frame (s : State) (b : Byte) : Frame (fun e => e = .dt) s (s.setDt b) := fun e he => by
  cases e with
  | dt => exact absurd rfl he
  | _ => rfl

/-- Writing `ST` writes nothing else (R212). -/
theorem setSt_frame (s : State) (b : Byte) : Frame (fun e => e = .st) s (s.setSt b) := fun e he => by
  cases e with
  | st => exact absurd rfl he
  | _ => rfl

/-- `DT` written and then the advance write `DT` and `PC`. -/
theorem setDt_advance_frame (s : State) (b : Byte) : Frame (fun e => e = .dt ∨ e = .pc) s (s.setDt b).advance :=
  ((setDt_frame s b).mono fun _ => .inl).trans ((advance_frame (s.setDt b)).mono fun _ => .inr)

/-- `ST` written and then the advance write `ST` and `PC`. -/
theorem setSt_advance_frame (s : State) (b : Byte) : Frame (fun e => e = .st ∨ e = .pc) s (s.setSt b).advance :=
  ((setSt_frame s b).mono fun _ => .inl).trans ((advance_frame (s.setSt b)).mono fun _ => .inr)

/-! ### Ticks and `SOUND` (R42, R245) -/

/-- `SOUND` is 1 exactly while `ST` is not 0 (R42). -/
theorem sound_iff_st_ne_zero (s : State) : sound s = true ↔ s.st ≠ 0 := bne_iff_ne

/-- The same, with `ST` as a number. -/
theorem sound_iff_st_pos (s : State) : sound s = true ↔ 0 < s.st.toNat := by
  rw [sound_iff_st_ne_zero, Nat.pos_iff_ne_zero, ← BitVec.toNat_ne_iff_ne]
  exact Iff.rfl

/-- One tick of a timer is the subtraction of 1 that stops at 0 (R245). -/
theorem countDown_toNat (b : Byte) : (countDown b).toNat = b.toNat - 1 := by
  unfold countDown
  split <;> bv_omega

/-- `k` ticks subtract `k` from `ST` and stop at 0, by induction on the ticks. -/
theorem timerTick_iterate_st_toNat (k : Nat) (s : State) : (timerTick^[k] s).st.toNat = s.st.toNat - k := by
  induction k with
  | zero => rfl
  | succ k ih => rw [Function.iterate_succ_apply', timerTick_st, countDown_toNat, ih, Nat.sub_sub]

/-- `SOUND` stays 1 until as many ticks have passed as `ST` says. -/
theorem sound_timerTick_iterate_iff (k : Nat) (s : State) : sound (timerTick^[k] s) = true ↔ k < s.st.toNat := by
  rw [sound_iff_st_pos, timerTick_iterate_st_toNat, Nat.sub_pos_iff_lt]

/-! ### LD Vx, DT; LD DT, Vx; LD ST, Vx (R210 to R212) -/

theorem exec_ldVxDt (x : Reg) (s : State) : exec (.ldVxDt x) s = .next (s.setV x s.dt).advance := rfl

theorem exec_ldDtVx (x : Reg) (s : State) : exec (.ldDtVx x) s = .next (s.setDt (s.getV x)).advance := rfl

theorem exec_ldStVx (x : Reg) (s : State) : exec (.ldStVx x) s = .next (s.setSt (s.getV x)).advance := rfl

/-- Settles O44: each is one register or timer written and the advance, and `SOUND` follows the `ST` written through the ticks. -/
theorem timerAccessMovesBytes : Obligations.TimerAccessMovesBytes := by
  intro x s
  refine ⟨rfl, rfl, rfl, ?readDelay, ?setDelay, ?setSound⟩
  case readDelay => exact ⟨_, exec_ldVxDt x s, getV_setV_advance_self s x s.dt, rfl, setV_advance_frame s x s.dt⟩
  case setDelay => exact ⟨_, exec_ldDtVx x s, rfl, rfl, setDt_advance_frame s (s.getV x)⟩
  case setSound =>
    exact ⟨_, exec_ldStVx x s, rfl, sound_iff_st_ne_zero _, rfl, fun k => sound_timerTick_iterate_iff k _,
      setSt_advance_frame s (s.getV x)⟩

end Sys2Proof.Machine
end

section
/-! SUPPORT. The decoder (30_encoding.md R94 to R100): what it answers in terms of the rows a word hits, which bits of a word each
format's mask fixes, and the obligations about decoding and encoding. -/

namespace Sys2Proof

/-! ### The rows are disjoint (R94) -/

/-- A word that hits two rows makes their patterns agree on the bits both masks select. -/
theorem OpcodeRow.patterns_agree_of_hits {a b : OpcodeRow} {op : Word} (ha : a.hits op = true) (hb : b.hits op = true) :
    a.pattern &&& b.mask = b.pattern &&& a.mask := by
  rw [← eq_of_beq ha, ← eq_of_beq hb, BitVec.and_assoc, BitVec.and_assoc, BitVec.and_comm a.mask]

/-- Any two rows of the table differ on a bit both masks select. -/
theorem opcodeTable_patterns_differ :
    opcodeTable.Pairwise (fun a b => a.pattern &&& b.mask ≠ b.pattern &&& a.mask) := by decide

/-- Settles O3: rows whose patterns differ where both masks look share no word. -/
theorem opcodeRowsAreDisjoint : Obligations.OpcodeRowsAreDisjoint :=
  ⟨rfl, opcodeTable_patterns_differ.imp fun hne _ hits => hne (OpcodeRow.patterns_agree_of_hits hits.1 hits.2)⟩

/-! ### What the decoder answers (R95, R100) -/

/-- Two rows of the table that one word hits are the same row. -/
theorem opcodeTable_row_unique {a b : OpcodeRow} {op : Word} (ha : a ∈ opcodeTable) (hb : b ∈ opcodeTable)
    (hita : a.hits op = true) (hitb : b.hits op = true) : a = b := by
  by_contra hne
  have : Std.Symm fun a b : OpcodeRow => a.pattern &&& b.mask ≠ b.pattern &&& a.mask := ⟨fun _ _ h => h.symm⟩
  exact opcodeTable_patterns_differ.forall ha hb hne (OpcodeRow.patterns_agree_of_hits hita hitb)

/-- The decoder answers an instruction exactly when a row that the word hits reads it. -/
theorem decode_eq_instr_iff {op : Word} {i : Instr} :
    decode op = .instr i ↔ ∃ r ∈ opcodeTable, r.hits op = true ∧ r.build op = i := by
  unfold decode
  constructor
  · intro h
    split at h
    · next r hfind =>
      exact ⟨r, List.mem_of_find?_eq_some hfind, by simpa using List.find?_some hfind, Decoded.instr.inj h⟩
    · cases h
  · rintro ⟨r, hmem, hhit, rfl⟩
    split
    · next q hfind =>
      have hq : q = r :=
        opcodeTable_row_unique (List.mem_of_find?_eq_some hfind) hmem (by simpa using List.find?_some hfind) hhit
      rw [hq]
    · next hfind => exact absurd hhit (List.find?_eq_none.mp hfind r hmem)

/-- The decoder answers UNKNOWN exactly when the word hits no row, and hands the word back. -/
theorem decode_eq_unknown_iff {op u : Word} :
    decode op = .unknown u ↔ u = op ∧ ∀ r ∈ opcodeTable, ¬ op &&& r.mask = r.pattern := by
  have hnone : (opcodeTable.find? fun r => r.hits op) = none ↔ ∀ r ∈ opcodeTable, ¬ op &&& r.mask = r.pattern := by
    simp only [List.find?_eq_none, OpcodeRow.hits, beq_iff_eq]
  rw [← hnone]
  unfold decode
  split
  · next r hfind => simp [hfind]
  · next hfind => simp [hfind, eq_comm]

/-! ### Decoding what was encoded (R96) -/

/-- Every well-formed instruction's opcode hits a row that reads the instruction from it. -/
theorem encode_hits_its_row (i : Instr) : Laws.EncodeHitsItsRow.Statement i := by
  open Laws.EncodeHitsItsRow in
  cases i with
  | cls => exact cls
  | ret => exact ret
  | jp nnn => exact jp nnn
  | call nnn => exact call nnn
  | seImm x nn => exact seImm x nn
  | sneImm x nn => exact sneImm x nn
  | seReg x y => exact seReg x y
  | ldImm x nn => exact ldImm x nn
  | addImm x nn => exact addImm x nn
  | ldReg x y => exact ldReg x y
  | orReg x y => exact orReg x y
  | andReg x y => exact andReg x y
  | xorReg x y => exact xorReg x y
  | addReg x y => exact addReg x y
  | subReg x y => exact subReg x y
  | shr x y => exact shr x y
  | subnReg x y => exact subnReg x y
  | shl x y => exact shl x y
  | sneReg x y => exact sneReg x y
  | ldI nnn => exact ldI nnn
  | jpV0 nnn => exact jpV0 nnn
  | rnd x nn => exact rnd x nn
  | drw x y n => exact drw x y n
  | skp x => exact skp x
  | sknp x => exact sknp x
  | ldVxDt x => exact ldVxDt x
  | ldVxK x => exact ldVxK x
  | ldDtVx x => exact ldDtVx x
  | ldStVx x => exact ldStVx x
  | addI x => exact addI x
  | ldF x => exact ldF x
  | ldB x => exact ldB x
  | storeRegs x => exact storeRegs x
  | loadRegs x => exact loadRegs x

/-- Settles O1: the opcode hits the instruction's own row, and the row reads the instruction back. -/
theorem decodeInvertsEncode : Obligations.DecodeInvertsEncode :=
  fun i hwf => decode_eq_instr_iff.mpr (encode_hits_its_row i hwf)

/-! ### Encoding what was decoded (R92) -/

/-- The row drops no bit: a word that hits it is the opcode of the instruction the row reads, which is well-formed. -/
def OpcodeRow.KeepsEveryBit (r : OpcodeRow) : Prop :=
  ∀ op : Word, op &&& r.mask = r.pattern → (r.build op).wf = true ∧ encode (r.build op) = op

/-- A row without fields holds one word. -/
theorem keepsEveryBit_of_no_field {base : Word} {i : Instr} (hwf : i.wf = true) (henc : encode i = base) :
    OpcodeRow.KeepsEveryBit ⟨base, 0xFFFF, fun _ => i⟩ := by
  intro op hhit
  have hop : op &&& BitVec.allOnes 16 = base := hhit
  rw [BitVec.and_allOnes] at hop
  exact ⟨hwf, henc.trans hop.symm⟩

/-- A field read from a word and put back where it stood is the bits of the word that its mask selects. -/
theorem field_in_place (op : Word) (lo len : Nat) (mask : Word)
    (hmask : ∀ k, k < 16 → mask.getLsbD k = decide (lo ≤ k ∧ k < lo + len)) :
    (op.extractLsb' lo len).setWidth 16 <<< lo = op &&& mask := by
  refine BitVec.eq_of_getLsbD_eq fun k hk => ?_
  rw [BitVec.getLsbD_and, hmask k hk]
  by_cases hlo : lo ≤ k
  · have hback : lo + (k - lo) = k := Nat.add_sub_of_le hlo
    have hlen : k - lo < len ↔ k < lo + len := by omega
    simp [hk, hlo, hback, hlen, Bool.and_comm]
  · simp [hlo]

/-- The same for a field at bit 0. -/
theorem low_field_in_place (op : Word) (len : Nat) (mask : Word)
    (hmask : ∀ k, k < 16 → mask.getLsbD k = decide (0 ≤ k ∧ k < 0 + len)) :
    (op.extractLsb' 0 len).setWidth 16 = op &&& mask := by
  rw [← field_in_place op 0 len mask hmask, BitVec.shiftLeft_zero]

/-- The `x` field is bits 8 to 11, where they stand. -/
theorem wordX_fieldX (op : Word) : BitVec.ofNat 16 (fieldX op).val <<< 8 = op &&& 0x0F00 := by
  rw [ofNat_reg]
  exact field_in_place op 8 4 0x0F00 (by decide)

/-- The `y` field is bits 4 to 7, where they stand. -/
theorem wordY_fieldY (op : Word) : BitVec.ofNat 16 (fieldY op).val <<< 4 = op &&& 0x00F0 := by
  rw [ofNat_reg]
  exact field_in_place op 4 4 0x00F0 (by decide)

theorem fieldN_lt (op : Word) : fieldN op < 16 := (op.extractLsb' 0 4).isLt

/-- The `n` field is bits 0 to 3. -/
theorem word_fieldN (op : Word) : BitVec.ofNat 16 (fieldN op) = op &&& 0x000F :=
  (ofNat_count (fieldN_lt op)).trans (low_field_in_place op 4 0x000F (by decide))

/-- The `nn` field is bits 0 to 7. -/
theorem word_fieldNN (op : Word) : (fieldNN op).setWidth 16 = op &&& 0x00FF := low_field_in_place op 8 0x00FF (by decide)

/-- The `nnn` field is bits 0 to 11. -/
theorem word_fieldNNN (op : Word) : (fieldNNN op).setWidth 16 = op &&& 0x0FFF := low_field_in_place op 12 0x0FFF (by decide)

section
variable {base : Word}

/-- Format `NNN`: the mask's four bits and the twelve of the field are the whole word. -/
theorem keepsEveryBit_NNN {build : Addr12 → Instr} (hwf : ∀ a, (build a).wf = true)
    (henc : ∀ a, encode (build a) = encodeNNN base a) :
    OpcodeRow.KeepsEveryBit ⟨base, 0xF000, fun op => build (fieldNNN op)⟩ := by
  rintro op (rfl : op &&& 0xF000 = base)
  refine ⟨hwf _, (henc _).trans ?_⟩
  rw [encodeNNN, word_fieldNNN, ← BitVec.and_or_distrib_left]
  exact BitVec.and_allOnes

/-- Format `XNN`. -/
theorem keepsEveryBit_XNN {build : Reg → Byte → Instr} (hwf : ∀ x nn, (build x nn).wf = true)
    (henc : ∀ x nn, encode (build x nn) = encodeXNN base x nn) :
    OpcodeRow.KeepsEveryBit ⟨base, 0xF000, fun op => build (fieldX op) (fieldNN op)⟩ := by
  rintro op (rfl : op &&& 0xF000 = base)
  refine ⟨hwf _ _, (henc _ _).trans ?_⟩
  rw [encodeXNN, wordX_fieldX, word_fieldNN, ← BitVec.and_or_distrib_left, ← BitVec.and_or_distrib_left]
  exact BitVec.and_allOnes

/-- Format `XY`. -/
theorem keepsEveryBit_XY {build : Reg → Reg → Instr} (hwf : ∀ x y, (build x y).wf = true)
    (henc : ∀ x y, encode (build x y) = encodeXY base x y) :
    OpcodeRow.KeepsEveryBit ⟨base, 0xF00F, fun op => build (fieldX op) (fieldY op)⟩ := by
  rintro op (rfl : op &&& 0xF00F = base)
  refine ⟨hwf _ _, (henc _ _).trans ?_⟩
  rw [encodeXY, wordX_fieldX, wordY_fieldY, ← BitVec.and_or_distrib_left, ← BitVec.and_or_distrib_left]
  exact BitVec.and_allOnes

/-- Format `X`. -/
theorem keepsEveryBit_X {build : Reg → Instr} (hwf : ∀ x, (build x).wf = true)
    (henc : ∀ x, encode (build x) = encodeX base x) :
    OpcodeRow.KeepsEveryBit ⟨base, 0xF0FF, fun op => build (fieldX op)⟩ := by
  rintro op (rfl : op &&& 0xF0FF = base)
  refine ⟨hwf _, (henc _).trans ?_⟩
  rw [encodeX, wordX_fieldX, ← BitVec.and_or_distrib_left]
  exact BitVec.and_allOnes

end

/-- Format `XYN`, of DXYN only: the row count read from a word is below 16. -/
theorem keepsEveryBit_drw :
    OpcodeRow.KeepsEveryBit ⟨0xD000, 0xF000, fun op => .drw (fieldX op) (fieldY op) (fieldN op)⟩ := by
  intro op hhit
  refine ⟨decide_eq_true (fieldN_lt op), ?_⟩
  have hbase : op &&& 0xF000 = 0xD000 := hhit
  show encodeXYN 0xD000 _ _ _ = op
  rw [encodeXYN, wordX_fieldX, wordY_fieldY, word_fieldN, ← hbase, ← BitVec.and_or_distrib_left,
    ← BitVec.and_or_distrib_left, ← BitVec.and_or_distrib_left]
  exact BitVec.and_allOnes

theorem opcodeRowsLow_keep_every_bit : ∀ r ∈ opcodeRowsLow, r.KeepsEveryBit := by
  simp only [opcodeRowsLow, List.forall_mem_cons]
  exact ⟨keepsEveryBit_of_no_field rfl rfl, keepsEveryBit_of_no_field rfl rfl,
    keepsEveryBit_NNN (fun _ => rfl) fun _ => rfl, keepsEveryBit_NNN (fun _ => rfl) fun _ => rfl,
    keepsEveryBit_XNN (fun _ _ => rfl) fun _ _ => rfl, keepsEveryBit_XNN (fun _ _ => rfl) fun _ _ => rfl,
    keepsEveryBit_XY (fun _ _ => rfl) fun _ _ => rfl, keepsEveryBit_XNN (fun _ _ => rfl) fun _ _ => rfl,
    keepsEveryBit_XNN (fun _ _ => rfl) fun _ _ => rfl, List.forall_mem_nil _⟩

theorem opcodeRowsAlu_keep_every_bit : ∀ r ∈ opcodeRowsAlu, r.KeepsEveryBit := by
  simp only [opcodeRowsAlu, List.forall_mem_cons]
  refine ⟨?_, ?_, ?_, ?_, ?_, ?_, ?_, ?_, ?_, List.forall_mem_nil _⟩
  all_goals exact keepsEveryBit_XY (fun _ _ => rfl) fun _ _ => rfl

theorem opcodeRowsHigh_keep_every_bit : ∀ r ∈ opcodeRowsHigh, r.KeepsEveryBit := by
  simp only [opcodeRowsHigh, List.forall_mem_cons]
  exact ⟨keepsEveryBit_XY (fun _ _ => rfl) fun _ _ => rfl, keepsEveryBit_NNN (fun _ => rfl) fun _ => rfl,
    keepsEveryBit_NNN (fun _ => rfl) fun _ => rfl, keepsEveryBit_XNN (fun _ _ => rfl) fun _ _ => rfl, keepsEveryBit_drw,
    keepsEveryBit_X (fun _ => rfl) fun _ => rfl, keepsEveryBit_X (fun _ => rfl) fun _ => rfl, List.forall_mem_nil _⟩

theorem opcodeRowsF_keep_every_bit : ∀ r ∈ opcodeRowsF, r.KeepsEveryBit := by
  simp only [opcodeRowsF, List.forall_mem_cons]
  refine ⟨?_, ?_, ?_, ?_, ?_, ?_, ?_, ?_, ?_, List.forall_mem_nil _⟩
  all_goals exact keepsEveryBit_X (fun _ => rfl) fun _ => rfl

theorem opcodeTable_keeps_every_bit : ∀ r ∈ opcodeTable, r.KeepsEveryBit := by
  simp only [opcodeTable, List.forall_mem_append]
  exact ⟨⟨⟨opcodeRowsLow_keep_every_bit, opcodeRowsAlu_keep_every_bit⟩, opcodeRowsHigh_keep_every_bit⟩,
    opcodeRowsF_keep_every_bit⟩

/-- Settles O2: the row that reads the instruction keeps every bit of the word. -/
theorem encodeInvertsDecode : Obligations.EncodeInvertsDecode := by
  intro op i h
  obtain ⟨r, hmem, hhit, rfl⟩ := decode_eq_instr_iff.mp h
  exact opcodeTable_keeps_every_bit r hmem op (eq_of_beq hhit)

/-- Settles O5: each word's fields, read off by evaluation. -/
theorem sampleWordsDecode : Obligations.SampleWordsDecode := by
  unfold Obligations.SampleWordsDecode
  decide

/-! ### The UNKNOWN words (R100) -/

/-- The bits of `XNN`'s and `NNN`'s mask: the family, `op[15:12]`. -/
theorem and_familyMask_toNat (op : Word) : (op &&& (0xF000 : Word)).toNat = op.toNat / 0x1000 * 0x1000 := by
  have hlt := op.isLt
  have hfield := field_in_place op 12 4 0xF000 (by decide)
  rw [← hfield, BitVec.toNat_shiftLeft, BitVec.toNat_setWidth, BitVec.extractLsb'_toNat, Nat.shiftLeft_eq,
    Nat.shiftRight_eq_div_pow]
  omega

/-- A mask of the family and of the low bits `2 ^ k - 1` selects the family and the remainder modulo `2 ^ k`. -/
theorem and_familyMask_low_toNat (op : Word) {low : Word} {k : Nat} (hk : k ≤ 12) (hlow : low.toNat = 2 ^ k - 1) :
    (op &&& (0xF000 ||| low)).toNat = op.toNat / 0x1000 * 0x1000 + op.toNat % 2 ^ k := by
  have hle : 2 ^ k ≤ 2 ^ 12 := Nat.pow_le_pow_right (by decide) hk
  have hlt : op.toNat % 2 ^ k < 2 ^ 12 := (Nat.mod_lt _ (Nat.two_pow_pos k)).trans_le hle
  have hsplit := Nat.two_pow_add_eq_or_of_lt hlt (op.toNat / 0x1000)
  rw [BitVec.and_or_distrib_left, BitVec.toNat_or, and_familyMask_toNat, BitVec.toNat_and, hlow,
    Nat.and_two_pow_sub_one_eq_mod, Nat.mul_comm]
  exact hsplit.symm

/-- The row of a family. -/
theorem and_familyMask_eq_iff (op base : Word) :
    op &&& (0xF000 : Word) = base ↔ op.toNat / 0x1000 = base.toNat / 0x1000 ∧ base.toNat % 0x1000 = 0 := by
  rw [← BitVec.toNat_inj, and_familyMask_toNat]
  omega

/-- The row of a family and a last nibble. -/
theorem and_nibbleMask_eq_iff (op base : Word) :
    op &&& (0xF00F : Word) = base ↔ op.toNat / 0x1000 = base.toNat / 0x1000 ∧ op.toNat % 16 = base.toNat % 0x1000 := by
  have hnum : (op &&& (0xF00F : Word)).toNat = op.toNat / 0x1000 * 0x1000 + op.toNat % 16 :=
    and_familyMask_low_toNat op (low := 0x000F) (k := 4) (by decide) rfl
  rw [← BitVec.toNat_inj, hnum]
  omega

/-- The row of a family and a last byte. -/
theorem and_byteMask_eq_iff (op base : Word) :
    op &&& (0xF0FF : Word) = base ↔ op.toNat / 0x1000 = base.toNat / 0x1000 ∧ op.toNat % 256 = base.toNat % 0x1000 := by
  have hnum : (op &&& (0xF0FF : Word)).toNat = op.toNat / 0x1000 * 0x1000 + op.toNat % 256 :=
    and_familyMask_low_toNat op (low := 0x00FF) (k := 8) (by decide) rfl
  rw [← BitVec.toNat_inj, hnum]
  omega

/-- The row of one word. -/
theorem and_wordMask_eq_iff (op base : Word) : op &&& (0xFFFF : Word) = base ↔ op.toNat = base.toNat := by
  rw [BitVec.toNat_inj, show op &&& (0xFFFF : Word) = op from BitVec.and_allOnes]

/-- Settles O4: no row is hit exactly when, in the word's own family, the last nibble or byte is none of the family's. -/
theorem unknownWordsAreExactly : Obligations.UnknownWordsAreExactly := by
  intro op u
  have hlt := op.isLt
  rw [decode_eq_unknown_iff, ← BitVec.toNat_ne_iff_ne (y := 0x00E0), ← BitVec.toNat_ne_iff_ne (y := 0x00EE)]
  refine and_congr_right fun _ => ?_
  simp only [opcodeTable, opcodeRowsLow, opcodeRowsAlu, opcodeRowsHigh, opcodeRowsF, List.forall_mem_append,
    List.forall_mem_cons, and_familyMask_eq_iff, and_nibbleMask_eq_iff, and_byteMask_eq_iff, and_wordMask_eq_iff]
  obtain ⟨family, hfamily⟩ : ∃ family, op.toNat / 0x1000 = family := ⟨_, rfl⟩
  have hsixteen : family < 16 := by omega
  rw [hfamily]
  interval_cases family <;> simp <;> omega

end Sys2Proof
end

section
/-! SUPPORT. Control flow, further (41_control_flow.md R141 to R150): the computed jump, a call with its return, the skips on a key,
and the obligations about them. -/

namespace Sys2Proof.Machine

/-! ### JP V0 (R144) -/

theorem exec_jpV0 (nnn : Addr12) (s : State) : exec (.jpV0 nnn) s = .next (s.setPc (targetPlusV0 nnn s)) := rfl

/-- A 12-bit address plus a byte is at most 0x10FE, so the sum is not reduced (D10). -/
theorem targetPlusV0_toNat (nnn : Addr12) (s : State) : (targetPlusV0 nnn s).toNat = nnn.toNat + (s.getV 0).toNat := by
  have ha := nnn.isLt
  have hb := (s.getV 0).isLt
  exact Nat.mod_eq_of_lt (by omega)

theorem targetPlusV0_toNat_le (nnn : Addr12) (s : State) : (targetPlusV0 nnn s).toNat ≤ 0x10FE := by
  have ha := nnn.isLt
  have hb := (s.getV 0).isLt
  rw [targetPlusV0_toNat]
  omega

/-- Settles O21: a transfer to the exact sum. -/
theorem jumpPlusV0IsExact : Obligations.JumpPlusV0IsExact := fun nnn s =>
  ⟨_, exec_jpV0 nnn s, targetPlusV0_toNat nnn s, targetPlusV0_toNat_le nnn s, setPc_frame s _⟩

/-! ### CALL, then RET (R141, R143) -/

/-- Settles O22: the RET pops the entry the CALL pushed. -/
theorem callThenReturnComesBack : Obligations.CallThenReturnComesBack := by
  intro nnn s t u hroom hcall hstack hsp
  have htsp : t.sp = s.sp + 1 := by
    rw [exec_call_of_lt nnn hroom] at hcall
    cases hcall
    rfl
  have husp : u.sp = s.sp + 1 := hsp.trans htsp
  refine ⟨u.popPc, exec_ret_of_pos (husp ▸ Nat.succ_pos s.sp), ?_, ?_⟩
  · exact popPc_pc_of_exec_call hroom hcall husp (stackAt_congr hstack s.sp)
  · rw [State.popPc_sp, husp, Nat.add_sub_cancel]

/-! ### The skips on a key (R149, R150) -/

/-- A key index the keypad has: the skip on the key's level. -/
theorem skipOnKey_of_le {x : Reg} {s : State} (h : (s.getV x).toNat ≤ 0xF) (whenHeld : Bool) :
    skipOnKey x whenHeld s = s.skipIf (s.keys.getLsbD (s.getV x).toNat == whenHeld) := if_neg (Nat.not_lt.mpr h)

/-- A key index above 0xF: the key error (D24). -/
theorem skipOnKey_of_gt {x : Reg} {s : State} (h : 0xF < (s.getV x).toNat) (whenHeld : Bool) :
    skipOnKey x whenHeld s = raiseFatal .outOfBounds .key ((s.getV x).setWidth 16) s := if_pos h

theorem exec_skp (x : Reg) (s : State) : exec (.skp x) s = .next (skipOnKey x true s) := rfl

theorem exec_sknp (x : Reg) (s : State) : exec (.sknp x) s = .next (skipOnKey x false s) := rfl

/-- A skip goes 4 on when its condition holds, else 2. -/
theorem skipIf_pc_eq (s : State) (c : Bool) : (s.skipIf c).pc = s.pc + (if c then 4 else 2) := by
  cases c <;> rfl

/-- A skip on a level that is not held goes 2 on when it is held, else 4. -/
theorem skipIf_beq_false_pc (s : State) (c : Bool) : (s.skipIf (c == false)).pc = s.pc + (if c then 2 else 4) := by
  cases c <;> rfl

/-- Settles O25: on each side of 0xF, a skip on the key's level, or the key error. -/
theorem skipOnKeyLevel : Obligations.SkipOnKeyLevel := by
  intro x s
  refine ⟨fun hkey => ⟨?held, ?notHeld⟩, fun hno => ⟨?_, ?_⟩⟩
  case held =>
    rw [exec_skp, skipOnKey_of_le hkey, beq_true]
    exact ⟨_, rfl, skipIf_pc_eq s _, skipIf_frame s _⟩
  case notHeld =>
    rw [exec_sknp, skipOnKey_of_le hkey]
    exact ⟨_, rfl, skipIf_beq_false_pc s _, skipIf_frame s _⟩
  · rw [exec_skp, skipOnKey_of_gt hno]
    exact ⟨_, rfl, raiseFatal_isFatal ..⟩
  · rw [exec_sknp, skipOnKey_of_gt hno]
    exact ⟨_, rfl, raiseFatal_isFatal ..⟩

end Sys2Proof.Machine
end

section
/-! SUPPORT. The bitwise operations (42_register_ops.md R164 to R166) and the arithmetic that writes the flag
(43_arithmetic_flags.md R170 to R175): what each answers, and the obligations about them. -/

namespace Sys2Proof.Machine

/-! ### OR, AND, XOR (R164 to R166) -/

theorem exec_orReg (x y : Reg) (s : State) : exec (.orReg x y) s = .next (s.setV x (s.getV x ||| s.getV y)).advance := rfl

theorem exec_andReg (x y : Reg) (s : State) : exec (.andReg x y) s = .next (s.setV x (s.getV x &&& s.getV y)).advance := rfl

theorem exec_xorReg (x y : Reg) (s : State) : exec (.xorReg x y) s = .next (s.setV x (s.getV x ^^^ s.getV y)).advance := rfl

/-- Settles O28: each is one register written with the bitwise word, and the advance. -/
theorem bitwiseOpsAreBitwise : Obligations.BitwiseOpsAreBitwise := by
  intro x y s
  refine ⟨⟨_, exec_orReg x y s, fun k _ => ?_, rfl, setV_advance_frame s x _⟩,
    ⟨_, exec_andReg x y s, fun k _ => ?_, rfl, setV_advance_frame s x _⟩,
    ⟨_, exec_xorReg x y s, fun k _ => ?_, rfl, setV_advance_frame s x _⟩⟩
  · rw [getV_setV_advance_self, BitVec.getLsbD_or]
  · rw [getV_setV_advance_self, BitVec.getLsbD_and]
  · rw [getV_setV_advance_self, BitVec.getLsbD_xor]

/-! ### A result and its flag, then the next instruction (R170) -/

/-- The flag is written last, so `VF` holds it whatever the destination (D7). -/
@[simp] theorem getV_finishFlagged_flag (s : State) (x : Reg) (r : Byte × Bool) :
    (finishFlagged x r s).getV 0xF = flagByte r.2 := (getV_finishFlagged s x 0xF r).trans (if_pos rfl)

/-- A destination other than `VF` keeps the result. -/
theorem getV_finishFlagged_dest (s : State) {x : Reg} (hx : x ≠ 0xF) (r : Byte × Bool) :
    (finishFlagged x r s).getV x = r.1 := by
  rw [getV_finishFlagged, if_neg hx, if_pos rfl]

/-- A flagged result writes its destination, `VF` and `PC`. -/
theorem finishFlagged_frame (s : State) (x : Reg) (r : Byte × Bool) :
    Frame (fun e => e = .v x ∨ e = .v 0xF ∨ e = .pc) s (finishFlagged x r s) :=
  ((setV_frame s x r.1).mono fun _ => .inl).trans ((setV_advance_frame (s.setV x r.1) regF (flagByte r.2)).mono fun _ => .inr)

theorem flagByte_decide (p : Prop) [Decidable p] : flagByte (decide p) = if p then 1 else 0 := by
  by_cases h : p <;> simp [flagByte, h]

theorem flagByte_toNat (f : Bool) : (flagByte f).toNat = f.toNat := by cases f <;> rfl

/-! ### ADD, SUB, SUBN (R171, R172, R174) -/

theorem exec_addReg (x y : Reg) (s : State) :
    exec (.addReg x y) s = .next (finishFlagged x (addCarry (s.getV x) (s.getV y)) s) := rfl

theorem exec_subReg (x y : Reg) (s : State) :
    exec (.subReg x y) s = .next (finishFlagged x (subNotBorrow (s.getV x) (s.getV y)) s) := rfl

theorem exec_subnReg (x y : Reg) (s : State) :
    exec (.subnReg x y) s = .next (finishFlagged x (subNotBorrow (s.getV y) (s.getV x)) s) := rfl

theorem addCarry_flag (a b : Byte) : flagByte (addCarry a b).2 = if a.toNat + b.toNat > 255 then 1 else 0 :=
  flagByte_decide _

theorem addCarry_result (a b : Byte) : (addCarry a b).1.toNat = (a.toNat + b.toNat) % 256 := rfl

theorem subNotBorrow_flag (a b : Byte) : flagByte (subNotBorrow a b).2 = if a.toNat ≥ b.toNat then 1 else 0 :=
  flagByte_decide _

theorem subNotBorrow_result (a b : Byte) : (subNotBorrow a b).1.toNat = (a.toNat + 256 - b.toNat) % 256 := by
  have hb := b.isLt
  rw [subNotBorrow, BitVec.toNat_sub]
  congr 1
  omega

/-- Settles O29: the sum and its carry. -/
theorem addSetsCarry : Obligations.AddSetsCarry := by
  intro x y s
  refine ⟨_, exec_addReg x y s, ?_, fun hx => ?_, rfl, finishFlagged_frame s x _⟩
  · rw [getV_finishFlagged_flag, addCarry_flag]
  · rw [getV_finishFlagged_dest s hx, addCarry_result]

/-- Settles O30: the two differences, with their operands exchanged, and not borrow. -/
theorem subtractsSetNotBorrow : Obligations.SubtractsSetNotBorrow := by
  intro x y s
  refine ⟨⟨_, exec_subReg x y s, ?_, fun hx => ?_, rfl, finishFlagged_frame s x _⟩,
    ⟨_, exec_subnReg x y s, ?_, fun hx => ?_, rfl, finishFlagged_frame s x _⟩⟩
  · rw [getV_finishFlagged_flag, subNotBorrow_flag]
  · rw [getV_finishFlagged_dest s hx, subNotBorrow_result]
  · rw [getV_finishFlagged_flag, subNotBorrow_flag]
  · rw [getV_finishFlagged_dest s hx, subNotBorrow_result]

/-! ### SHR, SHL (R173, R175) -/

theorem exec_shr (x y : Reg) (s : State) : exec (.shr x y) s = .next (finishFlagged x (shiftRightOut (s.getV x)) s) := rfl

theorem exec_shl (x y : Reg) (s : State) : exec (.shl x y) s = .next (finishFlagged x (shiftLeftOut (s.getV x)) s) := rfl

theorem shiftRightOut_flag (a : Byte) : (flagByte (shiftRightOut a).2).toNat = a.toNat % 2 := by
  rw [flagByte_toNat]
  exact (Nat.toNat_testBit a.toNat 0).trans (by rw [Nat.pow_zero, Nat.div_one])

theorem shiftRightOut_result (a : Byte) : (shiftRightOut a).1.toNat = a.toNat / 2 :=
  (BitVec.toNat_ushiftRight a 1).trans (Nat.shiftRight_eq_div_pow ..)

theorem shiftLeftOut_flag (a : Byte) : (flagByte (shiftLeftOut a).2).toNat = a.toNat / 128 := by
  have ha := a.isLt
  rw [flagByte_toNat]
  exact (Nat.toNat_testBit a.toNat 7).trans (by omega)

theorem shiftLeftOut_result (a : Byte) : (shiftLeftOut a).1.toNat = a.toNat * 2 % 256 := by
  rw [shiftLeftOut, BitVec.toNat_shiftLeft, Nat.shiftLeft_eq]

/-- Settles O31: the two shifts of the destination's own byte. -/
theorem shiftsSetBitShiftedOut : Obligations.ShiftsSetBitShiftedOut := by
  intro x y s
  refine ⟨⟨_, exec_shr x y s, ?_, fun hx => ?_, rfl, finishFlagged_frame s x _⟩,
    ⟨_, exec_shl x y s, ?_, fun hx => ?_, rfl, finishFlagged_frame s x _⟩⟩
  · rw [getV_finishFlagged_flag, shiftRightOut_flag]
  · rw [getV_finishFlagged_dest s hx, shiftRightOut_result]
  · rw [getV_finishFlagged_flag, shiftLeftOut_flag]
  · rw [getV_finishFlagged_dest s hx, shiftLeftOut_result]

end Sys2Proof.Machine
end

section
/-! SUPPORT. The index register and memory, further (44_index_memory.md R182 to R186): the sum and the glyph address, the bulk store
and the bulk load on each side of their range checks, what a fetch reads after a store, and the obligations about them. -/

namespace Sys2Proof.Machine

/-! ### ADD I (R182) -/

theorem exec_addI_of_le {x : Reg} {s : State} (h : s.i.toNat + (s.getV x).toNat ≤ 0xFFF) :
    exec (.addI x) s = .next (s.setI (BitVec.ofNat 16 (indexPlus x s))).advance :=
  congrArg Host.Outcome.next (if_neg (Nat.not_lt.mpr h))

theorem exec_addI_of_gt {x : Reg} {s : State} (h : 0xFFF < s.i.toNat + (s.getV x).toNat) :
    exec (.addI x) s = .next (raiseFatal .outOfBounds .index (BitVec.ofNat 16 (indexPlus x s)) s) :=
  congrArg Host.Outcome.next (if_pos h)

/-- The sum of a 12-bit index and a byte is a word. -/
theorem indexPlus_word_toNat (x : Reg) {s : State} (hi : s.i.toNat ≤ 0xFFF) :
    (BitVec.ofNat 16 (indexPlus x s)).toNat = s.i.toNat + (s.getV x).toNat := by
  have hv := (s.getV x).isLt
  exact Nat.mod_eq_of_lt (show s.i.toNat + (s.getV x).toNat < 2 ^ 16 by omega)

/-- Settles O33: on each side of 0xFFF, the exact sum in `I`, or the index error with it. -/
theorem addIndexIsExactOrFatal : Obligations.AddIndexIsExactOrFatal := by
  intro x s hi
  refine ⟨fun hle => ?_, fun hgt => ?_⟩
  · exact ⟨_, exec_addI_of_le hle, indexPlus_word_toNat x hi, rfl, setI_advance_frame s _⟩
  · exact ⟨_, _, indexPlus_word_toNat x hi, exec_addI_of_gt hgt, raiseFatal_isFatal ..⟩

/-! ### LD F (R183) -/

theorem exec_ldF (x : Reg) (s : State) : exec (.ldF x) s = .next (s.setI (BitVec.ofNat 16 (glyphAddress x s))).advance := rfl

/-- Five times a byte is a word (D13). -/
theorem glyphAddress_word_toNat (x : Reg) (s : State) :
    (BitVec.ofNat 16 (glyphAddress x s)).toNat = 0x000 + (s.getV x).toNat * 5 := by
  have hv := (s.getV x).isLt
  exact Nat.mod_eq_of_lt (show 0 + (s.getV x).toNat * 5 < 2 ^ 16 by omega)

theorem glyphAddress_word_toNat_le (x : Reg) (s : State) : (BitVec.ofNat 16 (glyphAddress x s)).toNat ≤ 1275 := by
  have hv := (s.getV x).isLt
  rw [glyphAddress_word_toNat]
  omega

/-- Settles O34: `I` is written with five times the whole byte. -/
theorem fontIndexIsFiveTimesDigit : Obligations.FontIndexIsFiveTimesDigit := fun x s =>
  ⟨_, exec_ldF x s, glyphAddress_word_toNat x s, glyphAddress_word_toNat_le x s, rfl, setI_advance_frame s _⟩

/-! ### LD [I], Vx (R185) -/

theorem exec_storeRegs_of_in {x : Reg} {s : State} (h : s.i.toNat + x.val ≤ 0xFFF) :
    exec (.storeRegs x) s = .next (s.store s.i.toNat (registersUpTo x s)).advance :=
  congrArg Host.Outcome.next (ifDataInMemory_of_in _ (.inr (by omega)))

theorem exec_storeRegs_of_out {x : Reg} {s : State} (h : 0xFFF < s.i.toNat + x.val) :
    exec (.storeRegs x) s = .next (raiseFatal .outOfBounds .data 0x1000 s) :=
  congrArg Host.Outcome.next (ifDataInMemory_of_out _ (Nat.succ_pos _) (by omega))

@[simp] theorem registersUpTo_length (x : Reg) (s : State) : (registersUpTo x s).length = x.val + 1 := by
  have hx := x.isLt
  simp only [registersUpTo, List.length_take, Vector.length_toList]
  omega

/-- The `k`-th byte stored is `V[k]`. -/
theorem registersUpTo_getElem (x : Reg) (s : State) (k : Reg) (hk : k.val < (registersUpTo x s).length) :
    (registersUpTo x s)[k.val] = s.getV k := by
  simp [registersUpTo, State.getV]

/-- Once the registers are stored at `I`, the byte at `I + k` is `V[k]`. -/
theorem read_store_registersUpTo {x : Reg} {s : State} (hm : s.mem.wf = true) (h : s.i.toNat + x.val ≤ 0xFFF) {k : Reg}
    (hk : k ≤ x) : (s.store s.i.toNat (registersUpTo x s)).mem.read (s.i.toNat + k.val) = s.getV k := by
  have hlen := registersUpTo_length x s
  have hlt : k.val < (registersUpTo x s).length := hlen ▸ Nat.lt_succ_of_le hk
  have hin : s.i.toNat + (registersUpTo x s).length ≤ 0x1000 := by omega
  rw [State.store_mem, Memory.read_writeRange_inside hm _ hin k.val hlt, registersUpTo_getElem]

/-- Storing the registers and advancing writes the bytes they go to and `PC`. -/
theorem store_registersUpTo_advance_frame (x : Reg) (s : State) (a : Nat) :
    Frame (fun e => (∃ k : Reg, k ≤ x ∧ e = .mem (a + k.val)) ∨ e = .pc) s (s.store a (registersUpTo x s)).advance := by
  refine (store_advance_frame s a (registersUpTo x s)).mono fun e he => he.imp_left ?_
  rintro ⟨k, hk, rfl⟩
  rw [registersUpTo_length] at hk
  exact ⟨⟨k, by omega⟩, Nat.le_of_lt_succ hk, rfl⟩

/-- Settles O36: on each side of the range check, the registers stored, or the data error. -/
theorem storeRegistersWritesThem : Obligations.StoreRegistersWritesThem := by
  intro x s hm
  refine ⟨fun hin => ?_, fun hout => ?_⟩
  · exact ⟨_, exec_storeRegs_of_in hin, fun k hk => read_store_registersUpTo hm hin hk, rfl,
      store_registersUpTo_advance_frame x s _⟩
  · exact ⟨_, exec_storeRegs_of_out hout, raiseFatal_isFatal ..⟩

/-! ### LD Vx, [I] (R186) -/

theorem exec_loadRegs_of_in {x : Reg} {s : State} (h : s.i.toNat + x.val ≤ 0xFFF) :
    exec (.loadRegs x) s = .next (s.setRegs (registersLoaded x s)).advance :=
  congrArg Host.Outcome.next (ifDataInMemory_of_in _ (.inr (by omega)))

theorem exec_loadRegs_of_out {x : Reg} {s : State} (h : 0xFFF < s.i.toNat + x.val) :
    exec (.loadRegs x) s = .next (raiseFatal .outOfBounds .data 0x1000 s) :=
  congrArg Host.Outcome.next (ifDataInMemory_of_out _ (Nat.succ_pos _) (by omega))

/-- A loaded register holds its byte, the others what they held. -/
theorem getV_setRegs_registersLoaded (x k : Reg) (s : State) :
    (s.setRegs (registersLoaded x s)).advance.getV k = if k ≤ x then s.mem.read (s.i.toNat + k.val) else s.getV k :=
  getV_registersLoaded x k s

/-- Loading the registers and advancing writes those registers and `PC`. -/
theorem setRegs_registersLoaded_advance_frame (x : Reg) (s : State) :
    Frame (fun e => (∃ k : Reg, k ≤ x ∧ e = .v k) ∨ e = .pc) s (s.setRegs (registersLoaded x s)).advance := fun e he => by
  cases e with
  | v k =>
    have hk : ¬ k ≤ x := fun hle => he (.inl ⟨k, hle, rfl⟩)
    exact (getV_setRegs_registersLoaded x k s).trans (if_neg hk)
  | pc => exact absurd (.inr rfl) he
  | _ => rfl

/-- Settles O37: on each side of the range check, the registers loaded, or the data error. -/
theorem loadRegistersReadsThem : Obligations.LoadRegistersReadsThem := by
  intro x s
  refine ⟨fun hin => ?_, fun hout => ?_⟩
  · exact ⟨_, exec_loadRegs_of_in hin, fun k hk => (getV_setRegs_registersLoaded x k s).trans (if_pos hk), rfl,
      setRegs_registersLoaded_advance_frame x s⟩
  · exact ⟨_, exec_loadRegs_of_out hout, raiseFatal_isFatal ..⟩

/-- Settles O38: the load reads, at the same addresses, the bytes the store put there. -/
theorem loadUndoesStore : Obligations.LoadUndoesStore := by
  intro x s t u hm hin hstore hmem hi
  rw [exec_storeRegs_of_in hin] at hstore
  cases hstore
  refine ⟨_, exec_loadRegs_of_in (hi ▸ hin), fun k hk => ?_⟩
  rw [getV_setRegs_registersLoaded, if_pos hk, hmem, hi]
  exact read_store_registersUpTo hm hin hk

/-! ### A fetch after a store (R74) -/

/-- A fetch from a memory in which a range was stored reads each byte from the range where it covers it. -/
theorem fetch_of_store {s u : State} (hm : s.mem.wf = true) {a : Nat} {bytes : List Byte} (hin : a + bytes.length ≤ 0x1000)
    (hmem : u.mem = (s.store a bytes).mem) (hpc : u.pc.toNat + 1 ≤ 0xFFF) :
    fetch u = some (overlaid s a bytes u.pc.toNat ++ overlaid s a bytes (u.pc.toNat + 1)) := by
  rw [fetch_eq, if_pos hpc, hmem, read_store hm hin, read_store hm hin]
  rfl

/-- The bytes FX55 stores, register by register. -/
theorem registersUpTo_eq_map (x : Reg) (s : State) :
    registersUpTo x s = (List.range (x.val + 1)).map fun k => s.getV (Fin.ofNat 16 k) := by
  have hx := x.isLt
  refine List.ext_getElem (by simp) fun k hk _ => ?_
  have hlt : k < 16 := by rw [registersUpTo_length] at hk; omega
  rw [List.getElem_map, List.getElem_range, registersUpTo_getElem x s ⟨k, hlt⟩ hk]
  congr 1
  exact Fin.ext (Nat.mod_eq_of_lt hlt).symm

/-- The digits FX33 stores, by division of bytes. -/
theorem decimalDigits_eq_div (v : Byte) : decimalDigits v = [v / 100, v / 10 % 10, v % 10] := by
  have hdigit := decimalDigits_toNat v
  refine List.ext_getElem rfl fun k hk _ => BitVec.eq_of_toNat_eq ((hdigit k hk).trans ?_)
  have hk : k < 3 := hk
  interval_cases k <;> rfl

/-- Settles O39: the store's memory, read by the fetch through `overlaid`, for the registers and for the digits. -/
theorem storeIsSeenByNextFetch : Obligations.StoreIsSeenByNextFetch := by
  intro x s hm
  refine ⟨fun hin => ⟨_, exec_storeRegs_of_in hin, rfl, fun u hmem hpc => ?_⟩,
    fun hin => ⟨_, exec_ldB_of_in x hin, rfl, fun u hmem hpc => ?_⟩⟩
  · rw [← registersUpTo_eq_map]
    exact fetch_of_store hm (by rw [registersUpTo_length]; omega) hmem hpc
  · rw [← decimalDigits_eq_div]
    exact fetch_of_store hm (show s.i.toNat + 3 ≤ 0x1000 by omega) hmem hpc

end Sys2Proof.Machine
end

section
/-! SUPPORT. Clear and draw (46_draw.md R200 to R205): the pixels a sprite covers, the screen a draw leaves and its collision flag,
and the obligations about them. -/

namespace Sys2Proof.Machine

/-! ### CLS (R200) -/

theorem exec_cls (s : State) : exec .cls s = .next (s.setScreen Screen.blank).advance := rfl

theorem Screen.pixel_blank (x : Fin 64) (y : Fin 32) : Screen.blank.pixel x y = false := by
  simp [Screen.pixel, Screen.blank]

/-- A screen written and then the advance write pixels, `DRAW` and `PC`. -/
theorem setScreen_advance_frame (s : State) (fb : Screen) :
    Frame (fun e => (∃ x y, e = .pixel x y) ∨ e = .draw ∨ e = .pc) s (s.setScreen fb).advance := fun e he => by
  cases e with
  | pixel x y => exact absurd (.inl ⟨x, y, rfl⟩) he
  | draw => exact absurd (.inr (.inl rfl)) he
  | pc => exact absurd (.inr (.inr rfl)) he
  | _ => rfl

/-- Settles O41: the blank screen, and the advance. -/
theorem clearBlanksScreen : Obligations.ClearBlanksScreen := fun s =>
  ⟨_, exec_cls s, Screen.pixel_blank, rfl, rfl, setScreen_advance_frame s _⟩

/-! ### The pixels a sprite covers (R201 to R203) -/

/-- The pixels that the sprite of `n` rows at `I` toggles are those it covers. -/
theorem mem_spritePixels_iff_covers (s : State) (x0 y0 n : Nat) (px : Fin 64) (py : Fin 32) :
    (px, py) ∈ spritePixels x0 y0 0 (s.mem.readRange s.i.toNat n) ↔ covers s x0 y0 n px py := by
  rw [mem_spritePixels]
  constructor
  · rintro ⟨r, hr, c, hc, hbit, hx, hy⟩
    rw [readRange_getElem] at hbit
    exact ⟨r, c, by simpa using hr, hc, hbit, hx, by simpa using hy⟩
  · rintro ⟨r, c, hr, hc, hbit, hx, hy⟩
    exact ⟨r, by simpa using hr, c, hc, by rwa [readRange_getElem], hx, by simpa using hy⟩

/-- What a draw of fewer than 16 rows leaves: the covered pixels toggled, and the flag set exactly when one of them was 1. -/
theorem drawnAt_spec (x y : Reg) {n : Nat} (hn : n < 16) (s : State) :
    (∀ px py, (drawnAt x y n s).1.pixel px py = true ↔
      ¬ (s.fb.pixel px py = true ↔ covers s (s.getV x).toNat (s.getV y).toNat n px py)) ∧
    ((drawnAt x y n s).2 = true ↔
      ∃ px py, covers s (s.getV x).toNat (s.getV y).toNat n px py ∧ s.fb.pixel px py = true) := by
  have hlen : (s.mem.readRange s.i.toNat n).length ≤ 32 := by rw [readRange_length]; omega
  obtain ⟨hpixel, hflag⟩ := togglePixels_spec _
    (spritePixels_nodup (x0 := (s.getV x).toNat) (y0 := (s.getV y).toNat) (r := 0) hlen) s.fb false
  refine ⟨fun px py => ?_, hflag.trans ?_⟩
  · rw [← mem_spritePixels_iff_covers, drawnAt, drawSprite, hpixel]
    by_cases hmem : (px, py) ∈ spritePixels (s.getV x).toNat (s.getV y).toNat 0 (s.mem.readRange s.i.toNat n) <;>
      simp [hmem]
  · simp only [mem_spritePixels_iff_covers, Bool.false_eq_true, false_or]

/-- A pixel covered while 1 is a pixel that goes from 1 to 0. -/
theorem drawnAt_flag_iff (x y : Reg) {n : Nat} (hn : n < 16) (s : State) :
    (drawnAt x y n s).2 = true ↔ ∃ px py, s.fb.pixel px py = true ∧ (drawnAt x y n s).1.pixel px py = false := by
  obtain ⟨hpixel, hflag⟩ := drawnAt_spec x y hn s
  rw [hflag]
  refine exists_congr fun px => exists_congr fun py => ?_
  rw [← Bool.not_eq_true, hpixel]
  tauto

/-! ### DRW (R202 to R205) -/

/-- The state DRW leaves when its rows exist. -/
def afterDraw (x y : Reg) (n : Nat) (s : State) : State :=
  ((s.setScreen (drawnAt x y n s).1).setV regF (flagByte (drawnAt x y n s).2)).advance

theorem exec_drw_of_in (x y : Reg) {n : Nat} {s : State} (h : n = 0 ∨ s.i.toNat + n - 1 ≤ 0xFFF) :
    exec (.drw x y n) s = .next (afterDraw x y n s) :=
  congrArg Host.Outcome.next (ifDataInMemory_of_in _ (by omega))

theorem exec_drw_of_out (x y : Reg) {n : Nat} {s : State} (h0 : 0 < n) (h : 0xFFF < s.i.toNat + n - 1) :
    exec (.drw x y n) s = .next (raiseFatal .outOfBounds .data 0x1000 s) :=
  congrArg Host.Outcome.next (ifDataInMemory_of_out _ h0 (by omega))

@[simp] theorem afterDraw_fb (x y : Reg) (n : Nat) (s : State) : (afterDraw x y n s).fb = (drawnAt x y n s).1 := rfl

@[simp] theorem getV_afterDraw_flag (x y : Reg) (n : Nat) (s : State) :
    (afterDraw x y n s).getV 0xF = flagByte (drawnAt x y n s).2 := getV_setV_advance_self _ regF _

theorem getV_afterDraw_ne (x y : Reg) (n : Nat) (s : State) {r : Reg} (hr : r ≠ 0xF) :
    (afterDraw x y n s).getV r = s.getV r := getV_setV_ne (s.setScreen _) _ hr

/-- A draw writes pixels, `VF`, `DRAW` and `PC`. -/
theorem afterDraw_frame (x y : Reg) (n : Nat) (s : State) :
    Frame (fun e => (∃ px py, e = .pixel px py) ∨ e = .v 0xF ∨ e = .draw ∨ e = .pc) s (afterDraw x y n s) := fun e he => by
  cases e with
  | v r => exact getV_afterDraw_ne x y n s fun h => he (.inr (.inl (congrArg Elem.v h)))
  | pixel px py => exact absurd (.inl ⟨px, py, rfl⟩) he
  | draw => exact absurd (.inr (.inr (.inl rfl))) he
  | pc => exact absurd (.inr (.inr (.inr rfl))) he
  | _ => rfl

/-- Settles O42: on each side of the range check, the covered pixels toggled and the collision in `VF`, or the data error. -/
theorem drawTogglesCoveredPixels : Obligations.DrawTogglesCoveredPixels := by
  intro x y n s hn
  refine ⟨fun hin => ⟨_, exec_drw_of_in x y hin, (drawnAt_spec x y hn s).1, ?_, rfl, rfl, afterDraw_frame x y n s⟩,
    fun h0 hout => ⟨_, exec_drw_of_out x y h0 hout, raiseFatal_isFatal ..⟩⟩
  rw [getV_afterDraw_flag, flagByte]
  exact if_congr (drawnAt_flag_iff x y hn s) rfl rfl

/-! ### The same sprite twice (R202) -/

/-- After a draw whose coordinates are not in `VF`, the same sprite at the same place covers the same pixels. -/
theorem covers_afterDraw_iff {x y : Reg} (hx : x ≠ 0xF) (hy : y ≠ 0xF) (n : Nat) (s : State) (px : Fin 64) (py : Fin 32) :
    covers (afterDraw x y n s) ((afterDraw x y n s).getV x).toNat ((afterDraw x y n s).getV y).toNat n px py ↔
      covers s (s.getV x).toNat (s.getV y).toNat n px py := by
  rw [getV_afterDraw_ne x y n s hx, getV_afterDraw_ne x y n s hy]
  exact Iff.rfl

/-- A second draw toggles the same pixels back. -/
theorem afterDraw_twice_fb {x y : Reg} (hx : x ≠ 0xF) (hy : y ≠ 0xF) {n : Nat} (hn : n < 16) (s : State) :
    (afterDraw x y n (afterDraw x y n s)).fb = s.fb := by
  refine Screen.ext_pixel fun px py => Bool.eq_iff_iff.mpr ?_
  rw [afterDraw_fb, (drawnAt_spec x y hn _).1, covers_afterDraw_iff hx hy, afterDraw_fb, (drawnAt_spec x y hn s).1]
  tauto

/-- A byte is not 0 exactly when one of its bits, counted from the left, is 1. -/
theorem byte_ne_zero_iff (b : Byte) : b ≠ 0 ↔ ∃ c, c < 8 ∧ b.getLsbD (7 - c) = true := by
  constructor
  · intro hne
    by_contra hnone
    refine hne (BitVec.eq_of_getLsbD_eq fun k hk => ?_)
    have hbit : ¬ b.getLsbD (7 - (7 - k)) = true := fun h => hnone ⟨7 - k, by omega, h⟩
    rw [show 7 - (7 - k) = k by omega] at hbit
    simpa using hbit
  · rintro ⟨c, -, hbit⟩ rfl
    simp at hbit

/-- Some pixel is covered exactly when the sprite has a 1 bit, wherever it stands. -/
theorem exists_covers_iff (s : State) (x0 y0 n : Nat) :
    (∃ px py, covers s x0 y0 n px py) ↔ ∃ r, r < n ∧ s.mem.read (s.i.toNat + r) ≠ 0 := by
  simp only [byte_ne_zero_iff]
  constructor
  · rintro ⟨px, py, r, c, hr, hc, hbit, -, -⟩
    exact ⟨r, hr, c, hc, hbit⟩
  · rintro ⟨r, hr, c, hc, hbit⟩
    exact ⟨Fin.ofNat 64 (x0 + c), Fin.ofNat 32 (y0 + r), r, c, hr, hc, hbit, rfl, rfl⟩

/-- Over a blank screen the pixels that are 1 after the first draw are the covered ones, so the second draw collides exactly when
there is one. -/
theorem afterDraw_twice_flag {x y : Reg} (hx : x ≠ 0xF) (hy : y ≠ 0xF) {n : Nat} (hn : n < 16) {s : State}
    (hblank : s.fb = Screen.blank) :
    (afterDraw x y n (afterDraw x y n s)).getV 0xF = 1 ↔ ∃ r, r < n ∧ s.mem.read (s.i.toNat + r) ≠ 0 := by
  rw [getV_afterDraw_flag, flagByte_eq_one, (drawnAt_spec x y hn _).2, ← exists_covers_iff]
  refine exists_congr fun px => exists_congr fun py => ?_
  rw [covers_afterDraw_iff hx hy, afterDraw_fb, (drawnAt_spec x y hn s).1, hblank, Screen.pixel_blank]
  tauto

/-- Settles O43: the two draws as two `afterDraw`s, their screen and their flag. -/
theorem drawingTwiceRestoresScreen : Obligations.DrawingTwiceRestoresScreen := by
  intro x y n s t u hn hx hy hin hfirst hsecond
  rw [exec_drw_of_in x y hin] at hfirst
  cases hfirst
  rw [exec_drw_of_in x y (s := afterDraw x y n s) hin] at hsecond
  cases hsecond
  exact ⟨afterDraw_twice_fb hx hy hn s, afterDraw_twice_flag hx hy hn⟩

end Sys2Proof.Machine
end

section
/-! SUPPORT. The key-wait (47_timers_keys.md R213): when it holds and what it takes, and the obligation about it. -/

namespace Sys2Proof.Machine

/-- No key has an edge exactly when the set of edges has no lowest key. -/
theorem lowestKey_keyEdges_eq_none {s : State} : lowestKey (keyEdges s) = none ↔ ¬ someEdge s := by
  rw [lowestKey_eq_none, someEdge]
  push Not
  refine forall_congr' fun k => forall_congr' fun hk => ?_
  rw [← Bool.not_eq_true, keyEdges_getLsbD s hk, not_and]

theorem exec_ldVxK_of_noEdge (x : Reg) {s : State} (h : ¬ someEdge s) : exec (.ldVxK x) s = .next s := by
  show execLdVxK x s = _
  rw [execLdVxK, lowestKey_keyEdges_eq_none.mpr h]

theorem exec_ldVxK_of_lowest (x : Reg) {s : State} {k : Nat} (h : lowestKey (keyEdges s) = some k) :
    exec (.ldVxK x) s = .next (s.setV x (BitVec.ofNat 8 k)).advance := by
  show execLdVxK x s = _
  rw [execLdVxK, h]

/-- A state with an edge has a lowest one. -/
theorem exists_lowestKey_of_someEdge {s : State} (h : someEdge s) : ∃ k, lowestKey (keyEdges s) = some k :=
  Option.ne_none_iff_exists'.mp fun hnone => lowestKey_keyEdges_eq_none.mp hnone h

/-- What the lowest key with an edge is: it has one, and no lower key has. -/
theorem lowestKey_keyEdges_eq_some {s : State} {k : Nat} (h : lowestKey (keyEdges s) = some k) :
    k < 16 ∧ (s.keys.getLsbD k = true ∧ s.keyPrev.getLsbD k = false) ∧
      ∀ j, j < k → ¬ (s.keys.getLsbD j = true ∧ s.keyPrev.getLsbD j = false) := by
  obtain ⟨hk, hedge, hlower⟩ := lowestKey_eq_some.mp h
  refine ⟨hk, (keyEdges_getLsbD s hk).mp hedge, fun j hj hjedge => ?_⟩
  rw [← keyEdges_getLsbD s (hj.trans hk), hlower j hj] at hjedge
  cases hjedge

/-- Settles O45: without an edge the state itself, with one the lowest key's number and the advance. -/
theorem keyWaitTakesLowestEdge : Obligations.KeyWaitTakesLowestEdge := by
  intro x s
  refine ⟨fun hno => ⟨s, exec_ldVxK_of_noEdge x hno, frame_refl _ s⟩, fun hedge => ?_⟩
  obtain ⟨k, hlow⟩ := exists_lowestKey_of_someEdge hedge
  obtain ⟨hk, ⟨hheld, hprev⟩, hlower⟩ := lowestKey_keyEdges_eq_some hlow
  refine ⟨_, exec_ldVxK_of_lowest x hlow, ⟨k, hk, hheld, hprev, ?_, hlower⟩, rfl, setV_advance_frame s x _⟩
  rw [getV_setV_advance_self]
  exact Nat.mod_eq_of_lt (by omega)

end Sys2Proof.Machine
end

section
/-! SUPPORT. What an instruction can do, said once: either the one check it makes fails and it is fatal (60_exceptions.md R230,
R240), or it completes in one of a few shapes. The rules of the whole machine about single instructions follow from the shapes. -/

namespace Sys2Proof.Machine

/-! ### The shapes in which an instruction completes -/

/-- The instructions that write one register, `x`, without a check and without waiting (R161 to R166, R190, R210). -/
def LoadsRegister (i : Instr) (x : Reg) : Prop :=
  (∃ nn, i = .ldImm x nn ∨ i = .addImm x nn ∨ i = .rnd x nn) ∨
    (∃ y, i = .ldReg x y ∨ i = .orReg x y ∨ i = .andReg x y ∨ i = .xorReg x y) ∨ i = .ldVxDt x

/-- The instructions that write a result and then the flag (R170). -/
def SetsFlag (i : Instr) : Prop :=
  ∃ x y, i = .addReg x y ∨ i = .subReg x y ∨ i = .shr x y ∨ i = .subnReg x y ∨ i = .shl x y

/-- The instructions that write `I` (R25). -/
def WritesIndex (i : Instr) : Prop := (∃ nnn, i = .ldI nnn) ∨ ∃ x, i = .addI x ∨ i = .ldF x

/-- The instructions that write memory (R60). -/
def WritesMemory (i : Instr) : Prop := ∃ x, i = .ldB x ∨ i = .storeRegs x

/-- `Completes s i t`: in state `s` instruction `i` meets no fatal condition and leaves `t`. One constructor for each shape: the
registers, words and bytes written are left open where no rule of the whole machine asks for them. -/
inductive Completes (s : State) : Instr → State → Prop where
  | clear : Completes s .cls (s.setScreen Screen.blank).advance
  | ret (h : 0 < s.sp) : Completes s .ret s.popPc
  | jump {i : Instr} (w : Word) (target : transferTarget i s = some w.toNat) (bound : w.toNat ≤ 0x10FE) :
      Completes s i (s.setPc w)
  | call (nnn : Addr12) (room : s.sp < 16) : Completes s (.call nnn) ((s.push (s.pc + 2)).setPc (targetOf nnn))
  | skip {i : Instr} (c : Bool) (condition : skipCondition i s = some c) : Completes s i (s.skipIf c)
  | register {i : Instr} {x : Reg} (b : Byte) (h : LoadsRegister i x) : Completes s i (s.setV x b).advance
  | flagged {i : Instr} (x : Reg) (r : Byte × Bool) (h : SetsFlag i) : Completes s i (finishFlagged x r s)
  | index {i : Instr} (w : Word) (h : WritesIndex i) (bound : w.toNat ≤ 0xFFF) : Completes s i (s.setI w).advance
  | draw (x y : Reg) (n : Nat) : Completes s (.drw x y n) (afterDraw x y n s)
  | keyHold (x : Reg) (noEdge : ¬ someEdge s) : Completes s (.ldVxK x) s
  | keyTaken (x : Reg) (b : Byte) (edge : someEdge s) : Completes s (.ldVxK x) (s.setV x b).advance
  | delayTimer (x : Reg) : Completes s (.ldDtVx x) (s.setDt (s.getV x)).advance
  | soundTimer (x : Reg) : Completes s (.ldStVx x) (s.setSt (s.getV x)).advance
  | store {i : Instr} (bytes : List Byte) (h : WritesMemory i) (inside : s.i.toNat + bytes.length ≤ 0x1000) :
      Completes s i (s.store s.i.toNat bytes).advance
  | load (x : Reg) : Completes s (.loadRegs x) (s.setRegs (registersLoaded x s)).advance

/-- In `s` instruction `i` meets no fatal condition, and completes. -/
def CompletesAt (i : Instr) (s : State) : Prop := ¬ raisesFatal i s ∧ ∃ t, exec i s = .next t ∧ Completes s i t

/-- In `s` the one check of instruction `i` fails: it raises a fatal error and does nothing else. -/
def FailsAt (i : Instr) (s : State) : Prop :=
  raisesFatal i s ∧ ∃ kind sub info, kind.isFatal = true ∧ exec i s = .next (raiseFatal kind sub info s)

/-! ### Each instruction completes in its shape, or fails -/

/-- An instruction without a check, which completes. -/
theorem completesAt_of_noCheck {i : Instr} {s t : State} (hcheck : raisesFatal i s = False) (hexec : exec i s = .next t)
    (h : Completes s i t) : CompletesAt i s := ⟨hcheck ▸ id, t, hexec, h⟩

theorem completesAt_of_loadsRegister {i : Instr} {x : Reg} {b : Byte} {s : State} (hcheck : raisesFatal i s = False)
    (h : LoadsRegister i x) (hexec : exec i s = .next (s.setV x b).advance) : CompletesAt i s :=
  completesAt_of_noCheck hcheck hexec (.register b h)

theorem failsAt_or_completesAt_ret (s : State) : FailsAt .ret s ∨ CompletesAt .ret s := by
  rcases Nat.eq_zero_or_pos s.sp with hempty | hpos
  · exact .inl ⟨hempty, _, _, _, rfl, exec_ret_of_empty hempty⟩
  · exact .inr ⟨hpos.ne', _, exec_ret_of_pos hpos, .ret hpos⟩

theorem failsAt_or_completesAt_call (nnn : Addr12) (s : State) : FailsAt (.call nnn) s ∨ CompletesAt (.call nnn) s := by
  rcases Nat.lt_or_ge s.sp 16 with hroom | hfull
  · exact .inr ⟨Nat.not_le.mpr hroom, _, exec_call_of_lt nnn hroom, .call nnn hroom⟩
  · exact .inl ⟨hfull, _, _, _, rfl, exec_call_of_full nnn hfull⟩

/-- Both skips on a key make the same check. -/
theorem failsAt_or_completesAt_skipOnKey {i : Instr} {x : Reg} {whenHeld : Bool} {s : State}
    (hcheck : raisesFatal i s = (0xF < (s.getV x).toNat)) (hexec : exec i s = .next (skipOnKey x whenHeld s))
    (hskip : skipCondition i s = some (s.keys.getLsbD (s.getV x).toNat == whenHeld)) : FailsAt i s ∨ CompletesAt i s := by
  rw [FailsAt, CompletesAt, hcheck, hexec]
  rcases Nat.lt_or_ge 0xF (s.getV x).toNat with hno | hkey
  · exact .inl ⟨hno, _, _, _, rfl, by rw [skipOnKey_of_gt hno]⟩
  · rw [skipOnKey_of_le hkey]
    exact .inr ⟨Nat.not_lt.mpr hkey, _, rfl, .skip _ hskip⟩

theorem failsAt_or_completesAt_addI (x : Reg) (s : State) : FailsAt (.addI x) s ∨ CompletesAt (.addI x) s := by
  rcases Nat.lt_or_ge 0xFFF (s.i.toNat + (s.getV x).toNat) with hgt | hle
  · exact .inl ⟨hgt, _, _, _, rfl, exec_addI_of_gt hgt⟩
  · exact .inr ⟨Nat.not_lt.mpr hle, _, exec_addI_of_le hle,
      .index _ (.inr ⟨x, .inl rfl⟩) ((indexPlus_word_toNat x (Nat.le_of_add_right_le hle)).trans_le hle)⟩

theorem failsAt_or_completesAt_ldB (x : Reg) (s : State) : FailsAt (.ldB x) s ∨ CompletesAt (.ldB x) s := by
  rcases Nat.lt_or_ge 0xFFF (s.i.toNat + 2) with hout | hin
  · exact .inl ⟨hout, _, _, _, rfl, exec_ldB_of_out x hout⟩
  · exact .inr ⟨Nat.not_lt.mpr hin, _, exec_ldB_of_in x hin,
      .store _ ⟨x, .inl rfl⟩ (show s.i.toNat + 3 ≤ 0x1000 by omega)⟩

theorem failsAt_or_completesAt_storeRegs (x : Reg) (s : State) : FailsAt (.storeRegs x) s ∨ CompletesAt (.storeRegs x) s := by
  rcases Nat.lt_or_ge 0xFFF (s.i.toNat + x.val) with hout | hin
  · exact .inl ⟨hout, _, _, _, rfl, exec_storeRegs_of_out hout⟩
  · exact .inr ⟨Nat.not_lt.mpr hin, _, exec_storeRegs_of_in hin,
      .store _ ⟨x, .inr rfl⟩ (by rw [registersUpTo_length]; omega)⟩

theorem failsAt_or_completesAt_loadRegs (x : Reg) (s : State) : FailsAt (.loadRegs x) s ∨ CompletesAt (.loadRegs x) s := by
  rcases Nat.lt_or_ge 0xFFF (s.i.toNat + x.val) with hout | hin
  · exact .inl ⟨hout, _, _, _, rfl, exec_loadRegs_of_out hout⟩
  · exact .inr ⟨Nat.not_lt.mpr hin, _, exec_loadRegs_of_in hin, .load x⟩

theorem failsAt_or_completesAt_drw (x y : Reg) (n : Nat) (s : State) : FailsAt (.drw x y n) s ∨ CompletesAt (.drw x y n) s := by
  by_cases hout : 0 < n ∧ 0xFFF < s.i.toNat + n - 1
  · exact .inl ⟨hout, _, _, _, rfl, exec_drw_of_out x y hout.1 hout.2⟩
  · exact .inr ⟨hout, _, exec_drw_of_in x y (by omega), .draw x y n⟩

theorem completesAt_ldVxK (x : Reg) (s : State) : CompletesAt (.ldVxK x) s := by
  by_cases hedge : someEdge s
  · obtain ⟨k, hlow⟩ := exists_lowestKey_of_someEdge hedge
    exact completesAt_of_noCheck rfl (exec_ldVxK_of_lowest x hlow) (.keyTaken x _ hedge)
  · exact completesAt_of_noCheck rfl (exec_ldVxK_of_noEdge x hedge) (.keyHold x hedge)

/-- Everything an instruction can do: it fails its one check, or it completes in one of the shapes. -/
theorem failsAt_or_completesAt (i : Instr) (s : State) : FailsAt i s ∨ CompletesAt i s := by
  cases i with
  | ret => exact failsAt_or_completesAt_ret s
  | call nnn => exact failsAt_or_completesAt_call nnn s
  | skp x => exact failsAt_or_completesAt_skipOnKey rfl (exec_skp x s) (by rw [beq_true]; rfl)
  | sknp x => exact failsAt_or_completesAt_skipOnKey rfl (exec_sknp x s) (by rw [beq_false]; rfl)
  | addI x => exact failsAt_or_completesAt_addI x s
  | ldB x => exact failsAt_or_completesAt_ldB x s
  | storeRegs x => exact failsAt_or_completesAt_storeRegs x s
  | loadRegs x => exact failsAt_or_completesAt_loadRegs x s
  | drw x y n => exact failsAt_or_completesAt_drw x y n s
  | ldVxK x => exact .inr (completesAt_ldVxK x s)
  | cls => exact .inr (completesAt_of_noCheck rfl (exec_cls s) .clear)
  | jp nnn =>
    have hbound : (targetOf nnn).toNat ≤ 0x10FE := by rw [targetOf_toNat]; omega
    exact .inr (completesAt_of_noCheck rfl rfl (.jump _ (congrArg some (targetOf_toNat nnn).symm) hbound))
  | jpV0 nnn =>
    exact .inr (completesAt_of_noCheck rfl (exec_jpV0 nnn s)
      (.jump _ (congrArg some (targetPlusV0_toNat nnn s).symm) (targetPlusV0_toNat_le nnn s)))
  | seImm x nn => exact .inr (completesAt_of_noCheck rfl rfl (.skip _ rfl))
  | sneImm x nn => exact .inr (completesAt_of_noCheck rfl rfl (.skip _ (congrArg some decide_not)))
  | seReg x y => exact .inr (completesAt_of_noCheck rfl rfl (.skip _ rfl))
  | sneReg x y => exact .inr (completesAt_of_noCheck rfl rfl (.skip _ (congrArg some decide_not)))
  | ldImm x nn => exact .inr (completesAt_of_loadsRegister rfl (.inl ⟨nn, .inl rfl⟩) (exec_ldImm x nn s))
  | addImm x nn => exact .inr (completesAt_of_loadsRegister rfl (.inl ⟨nn, .inr (.inl rfl)⟩) (exec_addImm x nn s))
  | rnd x nn => exact .inr (completesAt_of_loadsRegister rfl (.inl ⟨nn, .inr (.inr rfl)⟩) (exec_rnd x nn s))
  | ldReg x y => exact .inr (completesAt_of_loadsRegister rfl (.inr (.inl ⟨y, .inl rfl⟩)) (exec_ldReg x y s))
  | orReg x y => exact .inr (completesAt_of_loadsRegister rfl (.inr (.inl ⟨y, .inr (.inl rfl)⟩)) (exec_orReg x y s))
  | andReg x y =>
    exact .inr (completesAt_of_loadsRegister rfl (.inr (.inl ⟨y, .inr (.inr (.inl rfl))⟩)) (exec_andReg x y s))
  | xorReg x y =>
    exact .inr (completesAt_of_loadsRegister rfl (.inr (.inl ⟨y, .inr (.inr (.inr rfl))⟩)) (exec_xorReg x y s))
  | ldVxDt x => exact .inr (completesAt_of_loadsRegister rfl (.inr (.inr rfl)) (exec_ldVxDt x s))
  | addReg x y => exact .inr (completesAt_of_noCheck rfl (exec_addReg x y s) (.flagged x _ ⟨x, y, .inl rfl⟩))
  | subReg x y => exact .inr (completesAt_of_noCheck rfl (exec_subReg x y s) (.flagged x _ ⟨x, y, .inr (.inl rfl)⟩))
  | shr x y => exact .inr (completesAt_of_noCheck rfl (exec_shr x y s) (.flagged x _ ⟨x, y, .inr (.inr (.inl rfl))⟩))
  | subnReg x y =>
    exact .inr (completesAt_of_noCheck rfl (exec_subnReg x y s) (.flagged x _ ⟨x, y, .inr (.inr (.inr (.inl rfl)))⟩))
  | shl x y =>
    exact .inr (completesAt_of_noCheck rfl (exec_shl x y s) (.flagged x _ ⟨x, y, .inr (.inr (.inr (.inr rfl)))⟩))
  | ldI nnn =>
    have hbound : (targetOf nnn).toNat ≤ 0xFFF := by rw [targetOf_toNat]; omega
    exact .inr (completesAt_of_noCheck rfl (exec_ldI nnn s) (.index _ (.inl ⟨nnn, rfl⟩) hbound))
  | ldF x =>
    exact .inr (completesAt_of_noCheck rfl (exec_ldF x s)
      (.index _ (.inr ⟨x, .inr rfl⟩) ((glyphAddress_word_toNat_le x s).trans (by decide))))
  | ldDtVx x => exact .inr (completesAt_of_noCheck rfl (exec_ldDtVx x s) (.delayTimer x))
  | ldStVx x => exact .inr (completesAt_of_noCheck rfl (exec_ldStVx x s) (.soundTimer x))

/-- The same, of a given next state. -/
theorem exec_cases {i : Instr} {s t : State} (h : exec i s = .next t) :
    (∃ kind sub info, kind.isFatal = true ∧ t = raiseFatal kind sub info s) ∨ Completes s i t := by
  rcases failsAt_or_completesAt i s with ⟨-, kind, sub, info, hkind, hexec⟩ | ⟨-, u, hexec, hu⟩
  · rw [hexec] at h
    cases h
    exact .inl ⟨kind, sub, info, hkind, rfl⟩
  · rw [hexec] at h
    cases h
    exact .inr hu

/-- What no instruction that completes writes. -/
theorem Completes.unchanged {s t : State} {i : Instr} (h : Completes s i t) :
    t.halt = s.halt ∧ t.err = s.err ∧ t.result = s.result ∧ t.keyPrev = s.keyPrev ∧ t.keys = s.keys ∧ t.rnd = s.rnd ∧
      t.loadable = s.loadable ∧ t.script = s.script ∧ t.clock = s.clock := by
  cases h <;> exact ⟨rfl, rfl, rfl, rfl, rfl, rfl, rfl, rfl, rfl⟩

theorem Completes.halt_eq {s t : State} {i : Instr} (h : Completes s i t) : t.halt = s.halt := h.unchanged.1

/-! ### Errors (R230, R237, R240) -/

/-- Settles O50: an instruction that fails halts, one that completes runs on. -/
theorem fatalExactlyWhenChecksFail : Obligations.FatalExactlyWhenChecksFail := by
  intro i s hrun
  rcases failsAt_or_completesAt i s with ⟨hfatal, kind, sub, info, -, hexec⟩ | ⟨hnot, t, hexec, ht⟩
  · exact ⟨_, hexec, iff_of_true rfl hfatal⟩
  · have hhalt : t.halt = false := ht.halt_eq.trans hrun
    exact ⟨t, hexec, iff_of_false (by simp [hhalt]) hnot⟩

/-- Settles O51: only a failed check halts a running unit, and it raises the error and nothing more. -/
theorem fatalErrorsArePrecise : Obligations.FatalErrorsArePrecise := by
  intro i s t hrun hexec hhalt
  rcases exec_cases hexec with ⟨kind, sub, info, hkind, rfl⟩ | ht
  · obtain ⟨-, -, -, hframe⟩ := raiseFatal_isFatal kind sub info s
    exact ⟨rfl, hkind, rfl, hframe⟩
  · rw [ht.halt_eq, hrun] at hhalt
    cases hhalt

/-! ### The writers of each element (R22, R25, R27 to R30, R33, R35, R60) -/

/-- Writing another register does not write `VF`. -/
theorem dest_eq_flag_of_getV_ne {s : State} {x : Reg} {b : Byte} (h : (s.setV x b).advance.getV 0xF ≠ s.getV 0xF) : x = 0xF := by
  by_contra hx
  exact h (getV_setV_ne s b (Ne.symm hx))

/-- Settles O47: the flagged shape and the draw write `VF`; the others only as their destination. -/
theorem flagIsWrittenBySixOnly : Obligations.FlagIsWrittenBySixOnly := by
  intro i s t hexec hne
  rcases exec_cases hexec with ⟨_, _, _, -, rfl⟩ | ht
  · exact absurd rfl hne
  cases ht with
  | flagged x r h => exact .inl h
  | draw x y n => exact .inr (.inl ⟨x, y, n, rfl⟩)
  | register b h =>
    cases dest_eq_flag_of_getV_ne hne
    rcases h with himm | hreg | hdt
    · exact .inr (.inr (.inl himm))
    · exact .inr (.inr (.inr (.inl hreg)))
    · exact .inr (.inr (.inr (.inr (.inl hdt))))
  | keyTaken x b =>
    cases dest_eq_flag_of_getV_ne hne
    exact .inr (.inr (.inr (.inr (.inr (.inl rfl)))))
  | load x =>
    have hx : 0xF ≤ x := by
      by_contra hlt
      exact hne ((getV_setRegs_registersLoaded x 0xF s).trans (if_neg hlt))
    have hx : x = 0xF := le_antisymm (Fin.le_last x) hx
    exact .inr (.inr (.inr (.inr (.inr (.inr (congrArg Instr.loadRegs hx))))))
  | _ => exact absurd rfl hne

/-- Settles O48: one shape writes `I`; the call and the return write the stack pointer, and the call alone an entry. -/
theorem indexAndStackHaveFewWriters : Obligations.IndexAndStackHaveFewWriters := by
  intro i s t hexec
  rcases exec_cases hexec with ⟨_, _, _, -, rfl⟩ | ht
  · exact ⟨absurd rfl, absurd rfl, absurd rfl⟩
  cases ht with
  | index w h => exact ⟨fun _ => h, absurd rfl, absurd rfl⟩
  | call nnn => exact ⟨absurd rfl, fun _ => .inl ⟨nnn, rfl⟩, fun _ => ⟨nnn, rfl⟩⟩
  | ret => exact ⟨absurd rfl, fun _ => .inr rfl, absurd rfl⟩
  | _ => exact ⟨absurd rfl, absurd rfl, absurd rfl⟩

/-- A shape that leaves the screen and `DRAW` alone. -/
theorem absurd_of_screen_unchanged {s t : State} {P : Prop} (hfb : t.fb = s.fb) (hdraw : t.draw = s.draw) :
    t.fb ≠ s.fb ∨ t.draw ≠ s.draw → P := fun h => (h.elim (· hfb) (· hdraw)).elim

/-- Settles O49: one shape writes memory, one each timer, two the screen; none writes the rest. -/
theorem memoryTimersScreenHaveFewWriters : Obligations.MemoryTimersScreenHaveFewWriters := by
  intro i s t hexec
  rcases exec_cases hexec with ⟨_, _, _, -, rfl⟩ | ht
  · exact ⟨absurd rfl, absurd rfl, absurd rfl, absurd_of_screen_unchanged rfl rfl, rfl, rfl, rfl, rfl, rfl, rfl⟩
  obtain ⟨-, -, -, hrest⟩ := ht.unchanged
  rw [← and_assoc, ← and_assoc, ← and_assoc]
  refine ⟨?_, hrest⟩
  cases ht with
  | store bytes h => exact ⟨⟨⟨fun _ => h, absurd rfl⟩, absurd rfl⟩, absurd_of_screen_unchanged rfl rfl⟩
  | delayTimer x => exact ⟨⟨⟨absurd rfl, fun _ => ⟨x, rfl⟩⟩, absurd rfl⟩, absurd_of_screen_unchanged rfl rfl⟩
  | soundTimer x => exact ⟨⟨⟨absurd rfl, absurd rfl⟩, fun _ => ⟨x, rfl⟩⟩, absurd_of_screen_unchanged rfl rfl⟩
  | clear => exact ⟨⟨⟨absurd rfl, absurd rfl⟩, absurd rfl⟩, fun _ => ⟨.inl rfl, rfl⟩⟩
  | draw x y n => exact ⟨⟨⟨absurd rfl, absurd rfl⟩, absurd rfl⟩, fun _ => ⟨.inr ⟨x, y, n, rfl⟩, rfl⟩⟩
  | _ => exact ⟨⟨⟨absurd rfl, absurd rfl⟩, absurd rfl⟩, absurd_of_screen_unchanged rfl rfl⟩

/-! ### Where `PC` goes (R124) -/

/-- No instruction is a skip and a transfer. -/
theorem transferTarget_eq_none_of_skip {i : Instr} {s : State} {c : Bool} (h : skipCondition i s = some c) :
    transferTarget i s = none := by
  cases i <;> first | rfl | cases h

/-- A key-wait without an edge. -/
def WaitsForKey (i : Instr) (s : State) : Prop := (∃ x, i = .ldVxK x) ∧ ¬ someEdge s

/-- After `i` completes `PC` goes on by 2: it is no transfer, no skip and does not wait. -/
def GoesOn (i : Instr) (s : State) : Prop := transferTarget i s = none ∧ skipCondition i s = none ∧ ¬ WaitsForKey i s

/-- The four policies of R124 that an instruction which completes may follow. -/
def FollowsPcPolicy (i : Instr) (s t : State) : Prop :=
  (∀ a, transferTarget i s = some a → t.pc.toNat = a) ∧
    (∀ c, skipCondition i s = some c → t.pc = s.pc + (if c then 4 else 2)) ∧
    (WaitsForKey i s → t.pc = s.pc) ∧
    (transferTarget i s = none → skipCondition i s = none → ¬ WaitsForKey i s → t.pc = s.pc + 2)

/-- A key-wait is no transfer and no skip. -/
theorem WaitsForKey.no_target {i : Instr} {s : State} (h : WaitsForKey i s) :
    transferTarget i s = none ∧ skipCondition i s = none := by
  obtain ⟨⟨x, rfl⟩, -⟩ := h
  exact ⟨rfl, rfl⟩

theorem followsPcPolicy_of_transfer {i : Instr} {s t : State} (h : transferTarget i s = some t.pc.toNat) :
    FollowsPcPolicy i s t := by
  refine ⟨fun a ha => Option.some.inj (h.symm.trans ha), fun c hc => ?_, fun hwait => ?_, fun hnone => ?_⟩
  · cases h.symm.trans (transferTarget_eq_none_of_skip hc)
  · cases h.symm.trans hwait.no_target.1
  · cases h.symm.trans hnone

theorem followsPcPolicy_of_skip {i : Instr} {s : State} {c : Bool} (h : skipCondition i s = some c) :
    FollowsPcPolicy i s (s.skipIf c) := by
  refine ⟨fun a ha => ?_, fun d hd => ?_, fun hwait => ?_, fun _ hnone => ?_⟩
  · cases (transferTarget_eq_none_of_skip h).symm.trans ha
  · cases h.symm.trans hd
    exact skipIf_pc_eq s c
  · cases h.symm.trans hwait.no_target.2
  · cases h.symm.trans hnone

theorem followsPcPolicy_of_wait {i : Instr} {s : State} (h : WaitsForKey i s) : FollowsPcPolicy i s s := by
  obtain ⟨htransfer, hskip⟩ := h.no_target
  exact ⟨fun a ha => (by cases htransfer.symm.trans ha), fun c hc => (by cases hskip.symm.trans hc), fun _ => rfl,
    fun _ _ hnot => absurd h hnot⟩

theorem followsPcPolicy_of_goesOn {i : Instr} {s t : State} (h : GoesOn i s) (hpc : t.pc = s.pc + 2) :
    FollowsPcPolicy i s t := by
  obtain ⟨htransfer, hskip, hnot⟩ := h
  exact ⟨fun a ha => (by cases htransfer.symm.trans ha), fun c hc => (by cases hskip.symm.trans hc),
    fun hwait => absurd hwait hnot, fun _ _ _ => hpc⟩

/-- An instruction that is not the key-wait never waits. -/
theorem goesOn_of_ne_keyWait {i : Instr} {s : State} (htransfer : transferTarget i s = none) (hskip : skipCondition i s = none)
    (hne : ∀ x, i ≠ .ldVxK x) : GoesOn i s :=
  ⟨htransfer, hskip, fun hwait => hwait.1.elim hne⟩

theorem LoadsRegister.goesOn {i : Instr} {x : Reg} (h : LoadsRegister i x) (s : State) : GoesOn i s := by
  rcases h with ⟨nn, rfl | rfl | rfl⟩ | ⟨y, rfl | rfl | rfl | rfl⟩ | rfl <;> exact goesOn_of_ne_keyWait rfl rfl nofun

theorem SetsFlag.goesOn {i : Instr} (h : SetsFlag i) (s : State) : GoesOn i s := by
  obtain ⟨x, y, rfl | rfl | rfl | rfl | rfl⟩ := h <;> exact goesOn_of_ne_keyWait rfl rfl nofun

theorem WritesIndex.goesOn {i : Instr} (h : WritesIndex i) (s : State) : GoesOn i s := by
  rcases h with ⟨nnn, rfl⟩ | ⟨x, rfl | rfl⟩ <;> exact goesOn_of_ne_keyWait rfl rfl nofun

theorem WritesMemory.goesOn {i : Instr} (h : WritesMemory i) (s : State) : GoesOn i s := by
  obtain ⟨x, rfl | rfl⟩ := h <;> exact goesOn_of_ne_keyWait rfl rfl nofun

/-- Each shape follows its policy. -/
theorem Completes.followsPcPolicy {s t : State} {i : Instr} (h : Completes s i t) : FollowsPcPolicy i s t := by
  cases h with
  | jump w target => exact followsPcPolicy_of_transfer target
  | call nnn => exact followsPcPolicy_of_transfer (congrArg some (targetOf_toNat nnn).symm)
  | ret => exact followsPcPolicy_of_transfer rfl
  | skip c condition => exact followsPcPolicy_of_skip condition
  | keyHold x noEdge => exact followsPcPolicy_of_wait ⟨⟨x, rfl⟩, noEdge⟩
  | keyTaken x b edge => exact followsPcPolicy_of_goesOn ⟨rfl, rfl, fun hwait => hwait.2 edge⟩ rfl
  | register b h => exact followsPcPolicy_of_goesOn (h.goesOn s) rfl
  | flagged x r h => exact followsPcPolicy_of_goesOn (h.goesOn s) rfl
  | index w h => exact followsPcPolicy_of_goesOn (h.goesOn s) rfl
  | store bytes h => exact followsPcPolicy_of_goesOn (h.goesOn s) rfl
  | clear | draw | delayTimer | soundTimer | load =>
    exact followsPcPolicy_of_goesOn (goesOn_of_ne_keyWait rfl rfl nofun) rfl

/-- Settles O52: a failed check leaves `PC`, and an instruction that completes follows its shape's policy. -/
theorem pcFollowsItsPolicy : Obligations.PcFollowsItsPolicy := by
  intro i s t hrun hexec
  rcases exec_cases hexec with ⟨_, _, _, -, rfl⟩ | ht
  · exact ⟨fun _ => rfl, fun hhalt => Bool.noConfusion hhalt⟩
  · refine ⟨fun hhalt => ?_, fun _ => ht.followsPcPolicy⟩
    rw [ht.halt_eq, hrun] at hhalt
    cases hhalt

end Sys2Proof.Machine
end

section
/-! SUPPORT. The cycle (40_cycle.md R120 to R127; 47_timers_keys.md R215): what a step answers for a cycle event, how its
frames join, and the obligations about it. -/

namespace Sys2Proof.Machine

/-! ### Frames of a cycle's parts -/

/-- Taking an event off the queue writes the model's own record of events (log 1). -/
theorem takeEvent_frame (s : State) : Frame (fun e => e = .script ∨ e = .clock) s (takeEvent s) := fun e he => by
  cases e with
  | script => exact absurd (.inl rfl) he
  | clock => exact absurd (.inr rfl) he
  | _ => rfl

/-- An event writes what it writes once taken, and the record of events. -/
theorem event_frame {may : Elem → Prop} {s t : State} (h : Frame may (takeEvent s) t) :
    Frame (fun e => may e ∨ e = .script ∨ e = .clock) s t :=
  ((takeEvent_frame s).mono fun _ => .inr).trans (h.mono fun _ => .inl)

/-- Beginning a cycle writes its inputs, its result and `loadable` (logs 2, 3, 5). -/
theorem beginCycle_frame (keys : Keys) (rnd : Byte) (s : State) :
    Frame (fun e => e = .result ∨ e = .keys ∨ e = .rnd ∨ e = .loadable) s (beginCycle keys rnd s) := fun e he => by
  cases e with
  | result => exact absurd (.inl rfl) he
  | keys => exact absurd (.inr (.inl rfl)) he
  | rnd => exact absurd (.inr (.inr (.inl rfl))) he
  | loadable => exact absurd (.inr (.inr (.inr rfl))) he
  | _ => rfl

/-- The diagnostic writes the result and `PC` (R215). -/
theorem execUnknown_frame (op : Word) (s : State) : Frame (fun e => e = .pc ∨ e = .result) s (execUnknown op s) := fun e he => by
  cases e with
  | pc => exact absurd (.inl rfl) he
  | result => exact absurd (.inr rfl) he
  | _ => rfl

/-- Closing a cycle writes at most `KEY_PREV` (R126). -/
theorem closeCycle_frame (s : State) : Frame (fun e => e = .keyPrev) s (closeCycle s) := fun e he => by
  rcases closeCycle_cases s with ⟨-, heq⟩ | ⟨-, heq⟩
  · rw [heq]
    exact frame_refl (fun e => e = .keyPrev) s e he
  · rw [heq]
    cases e with
    | keyPrev => exact absurd rfl he
    | _ => rfl

/-- A cycle that runs `body` between its beginning and its end writes what `body` writes and the cycle's own bookkeeping. -/
theorem cycle_frame {may : Elem → Prop} {keys : Keys} {rnd : Byte} {s t : State}
    (body : Frame may (beginCycle keys rnd (takeEvent s)) t) :
    Frame (fun e => may e ∨ e = .keyPrev ∨ e = .result ∨ e = .keys ∨ e = .rnd ∨ e = .loadable ∨ e = .script ∨ e = .clock) s
      (closeCycle t) := by
  have hbegin := (beginCycle_frame keys rnd (takeEvent s)).mono (may' := fun e => may e ∨ e = .keyPrev ∨ e = .result ∨
    e = .keys ∨ e = .rnd ∨ e = .loadable) (by tauto)
  have hbody := hbegin.trans (body.mono fun _ => .inl)
  have hclose := hbody.trans ((closeCycle_frame t).mono fun _ he => .inr (.inl he))
  exact (event_frame hclose).mono (by tauto)

/-! ### Fetch and the step on a cycle event -/

theorem step_eq_perform {s : State} {e : Event} (h : nextEvent s = e) : step s = perform e (takeEvent s) := by
  rw [step, h]

theorem step_of_cycle {s : State} {keys : Keys} {rnd : Byte} (h : nextEvent s = .cycle keys rnd) :
    step s = cycle keys rnd (takeEvent s) := step_eq_perform h

/-- A running unit whose opcode lies inside `MEM` decodes and runs it. -/
theorem cycle_of_pc_in {s : State} (hrun : Running s) (hpc : s.pc.toNat + 1 ≤ 0xFFF) (keys : Keys) (rnd : Byte) :
    cycle keys rnd s =
      runOpcode (opcodeOfBytes (s.mem.read s.pc.toNat) (s.mem.read (s.pc.toNat + 1))) (beginCycle keys rnd s) := by
  rw [Running] at hrun
  simp [cycle, hrun, fetch_eq, hpc]

/-- Settles O6: the two reads of the fetch, and the fetch error of the running unit's cycle. -/
theorem fetchReadsTwoBytesOrHalts : Obligations.FetchReadsTwoBytesOrHalts := by
  intro s
  refine ⟨fun hin => ?_, fun hout => ⟨?_, fun keys rnd hrun => ?_⟩⟩
  · rw [fetch_eq, if_pos hin]
    rfl
  · rw [fetch_eq, if_neg (Nat.not_le.mpr hout)]
  · exact ⟨_, cycle_of_pc_out hrun hout keys rnd, raiseFatal_isFatal ..⟩

section
variable {s : State} {keys : Keys} {rnd : Byte} {op : Word} {i : Instr}

/-- A step on a word that decodes to an instruction runs it and closes the cycle. -/
theorem step_of_decode_instr (he : nextEvent s = .cycle keys rnd) (hrun : Running s) (hpc : s.pc.toNat + 1 ≤ 0xFFF)
    (hd : decode (s.mem.read s.pc.toNat ++ s.mem.read (s.pc.toNat + 1)) = .instr i) :
    step s = closeAnswer (exec i (beginCycle keys rnd (takeEvent s))) := by
  rw [step_of_cycle he, cycle_of_pc_in (s := takeEvent s) hrun hpc, runOpcode, opcodeOfBytes, takeEvent_mem, takeEvent_pc, hd]

/-- A step on an UNKNOWN word reports it and closes the cycle. -/
theorem step_of_decode_unknown (he : nextEvent s = .cycle keys rnd) (hrun : Running s) (hpc : s.pc.toNat + 1 ≤ 0xFFF)
    (hd : decode (s.mem.read s.pc.toNat ++ s.mem.read (s.pc.toNat + 1)) = .unknown op) :
    step s = .next (closeCycle (execUnknown op (beginCycle keys rnd (takeEvent s)))) := by
  rw [step_of_cycle he, cycle_of_pc_in (s := takeEvent s) hrun hpc, runOpcode, opcodeOfBytes, takeEvent_mem, takeEvent_pc, hd]

end

/-- Settles O7: the closed answer of exec, written out for each outcome. -/
theorem stepRunsDecodedInstruction : Obligations.StepRunsDecodedInstruction := by
  intro s keys rnd i he hrun hpc hd
  rw [step_of_decode_instr he hrun hpc hd]
  cases exec i (beginCycle keys rnd (takeEvent s)) <;> rfl

/-- Settles O8: the diagnostic between the beginning and the end of the cycle. -/
theorem stepReportsUnknownOpcode : Obligations.StepReportsUnknownOpcode := by
  intro s keys rnd op he hrun hpc hd
  refine ⟨_, step_of_decode_unknown he hrun hpc hd, ?result, ?pc, ?keyPrev, ?frame⟩
  case result => rw [closeCycle_result]; rfl
  case pc => rw [closeCycle_pc]; rfl
  case keyPrev => rw [closeCycle_keyPrev, execUnknown_halt, beginCycle_halt, takeEvent_halt, show s.halt = false from hrun]; rfl
  case frame => exact (cycle_frame (execUnknown_frame op _)).mono (by tauto)

/-- Settles O46: no newly pressed key is no edge, so the key-wait leaves the begun cycle as it is. -/
theorem heldKeyDoesNotEndKeyWait : Obligations.HeldKeyDoesNotEndKeyWait := by
  intro s keys rnd x he hrun hpc hd hheld
  have hno : ¬ someEdge (beginCycle keys rnd (takeEvent s)) := by
    rintro ⟨k, -, hdown, hup⟩
    exact Bool.false_ne_true (hup.symm.trans (hheld k hdown))
  have hstep := step_of_decode_instr he hrun hpc hd
  rw [exec_ldVxK_of_noEdge x hno] at hstep
  refine ⟨_, hstep, ?keyPrev, ?result, ?frame⟩
  case keyPrev => rw [closeCycle_keyPrev, beginCycle_halt, takeEvent_halt, show s.halt = false from hrun]; rfl
  case result => rw [closeCycle_result]; rfl
  case frame => exact (cycle_frame (frame_refl (fun _ => False) _)).mono (by tauto)

/-! ### The halted unit, and the end of every cycle -/

/-- Settles O9: the cycle looks at `HALT` first. -/
theorem haltedUnitHasNoCycle : Obligations.HaltedUnitHasNoCycle := by
  intro s keys rnd he hhalt
  rw [step_of_cycle he]
  exact if_pos hhalt

/-- What every cycle that answers a next state leaves: its inputs held, no more Load, and `KEY_PREV` recorded unless it halted. -/
theorem cycle_end {keys : Keys} {rnd : Byte} {s t : State} (h : cycle keys rnd s = .next t) :
    t.keys = keys ∧ t.loadable = false ∧ t.keyPrev = if t.halt then s.keyPrev else keys := by
  obtain ⟨hrun, ⟨-, rfl⟩ | ⟨-, _, -, ⟨i, u, -, hexec, rfl⟩ | ⟨w, -, rfl⟩⟩⟩ := cycle_cases h
  · exact ⟨rfl, rfl, rfl⟩
  · obtain ⟨-, -, -, -, hprev, hkeys, -, hload, -, -⟩ := memoryTimersScreenHaveFewWriters i _ u hexec
    rw [closeCycle_keys, closeCycle_loadable, closeCycle_keyPrev, closeCycle_halt, hkeys, hload, hprev]
    exact ⟨rfl, rfl, rfl⟩
  · rw [closeCycle_keys, closeCycle_loadable, closeCycle_keyPrev, closeCycle_halt]
    exact ⟨rfl, rfl, rfl⟩

/-- Settles O11: the end of the cycle, read on each side of `HALT`. -/
theorem cycleRecordsKeys : Obligations.CycleRecordsKeys := by
  intro s t keys rnd he hstep
  rw [step_of_cycle he] at hstep
  obtain ⟨hkeys, -, hprev⟩ := cycle_end hstep
  refine ⟨hkeys, fun hrun => ?_, fun hhalt => ?_⟩
  · rw [hprev, hrun]; rfl
  · rw [hprev, hhalt]; rfl

end Sys2Proof.Machine
end

section
/-! SUPPORT. The ticker and the host's events (60_exceptions.md R245; 70_reset_and_hazards.md R270 to R282): what a step answers for
each, and the obligations about them. -/

namespace Sys2Proof.Machine

/-! ### TimerTick (R245) -/

/-- A tick writes the timers and its empty result. -/
theorem timerTick_frame (s : State) : Frame (fun e => e = .dt ∨ e = .st ∨ e = .result) s (timerTick s) := fun e he => by
  cases e with
  | dt => exact absurd (.inl rfl) he
  | st => exact absurd (.inr (.inl rfl)) he
  | result => exact absurd (.inr (.inr rfl)) he
  | _ => rfl

/-- Settles O12: a tick on the state with the event taken. -/
theorem timerTickCountsBothDown : Obligations.TimerTickCountsBothDown := by
  intro s he
  refine ⟨_, step_eq_perform he, countDown_toNat s.dt, countDown_toNat s.st, ?_⟩
  exact (event_frame (timerTick_frame (takeEvent s))).mono (by tauto)

theorem core_run_succ_of_step {n : Nat} {s t : State} (h : step s = .next t) :
    Sys2Proof.core.run (n + 1) s = Sys2Proof.core.run n t := by
  have hstep : Sys2Proof.core.step s = .next t := h
  simp only [Host.Core.run, hstep]

/-- Settles O13: induction on the number of ticks, from any state. -/
theorem ticksInARowSaturateAtZero : Obligations.TicksInARowSaturateAtZero := by
  intro n rest
  induction n with
  | zero => exact fun s hscript => ⟨s, rfl, rfl, rfl, hscript⟩
  | succ n ih =>
    intro s hscript
    rw [List.replicate_succ, List.cons_append] at hscript
    have hnext : nextEvent s = .timerTick := by rw [nextEvent, hscript]
    have hrest : (timerTick (takeEvent s)).script = List.replicate n .timerTick ++ rest := by
      rw [timerTick_script, takeEvent_script, hscript, List.tail_cons]
    obtain ⟨t, hrun, hdt, hst, ht⟩ := ih _ hrest
    refine ⟨t, (core_run_succ_of_step (step_eq_perform hnext)).trans hrun, ?_, ?_, ht⟩
    · rw [hdt, timerTick_dt, takeEvent_dt, countDown_toNat, Nat.sub_sub, Nat.add_comm]
    · rw [hst, timerTick_st, takeEvent_st, countDown_toNat, Nat.sub_sub, Nat.add_comm]

/-! ### Reset (R270) -/

theorem font_length : font.length = 80 := rfl

/-- Above the font an unlisted byte reads as 0 (R48). -/
theorem unlisted_above_font {a : Nat} (h : 0x50 ≤ a) : Memory.unlisted a = 0 :=
  List.getD_eq_default font 0 (font_length ▸ h)

theorem stackAt_reset (k : Nat) : State.reset.stackAt k = 0 := by
  rcases Nat.lt_or_ge k 16 with hk | hk <;> simp [State.stackAt, State.reset, hk]

theorem getV_reset (r : Reg) : State.reset.getV r = 0 := by simp [State.getV, State.reset]

/-- Settles O14: every element of the block is the reset state's, from any state. -/
theorem resetWritesEveryElement : Obligations.ResetWritesEveryElement := fun s he =>
  ⟨resetEvent (takeEvent s), step_eq_perform he, getV_reset, rfl, rfl, rfl, stackAt_reset, rfl, rfl, rfl, fun _ _ => rfl,
    fun _ ha => unlisted_above_font ha, Screen.pixel_blank, rfl, rfl, rfl, rfl⟩

/-! ### Load (R278 to R280) -/

/-- Writing an event's result writes nothing else. -/
theorem setResult_frame (s : State) (r : Result) : Frame (fun e => e = .result) s { s with result := r } := fun e he => by
  cases e with
  | result => exact absurd rfl he
  | _ => rfl

section
variable {s : State} {bytes : List Byte}

theorem load_of_le (hload : s.loadable = true) (hrun : Running s) (h : bytes.length ≤ 3584) :
    load bytes s = .next { s.store 0x200 bytes with result := .loadAccepted } := by
  rw [Running] at hrun
  have hfits : ¬ bytes.length > Config.loadMax := Nat.not_lt.mpr h
  simp [load, hload, hrun, hfits]

theorem load_of_gt (hload : s.loadable = true) (hrun : Running s) (h : 3584 < bytes.length) :
    load bytes s = .next { s with result := .programTooLarge } := by
  rw [Running] at hrun
  have hlong : bytes.length > Config.loadMax := h
  simp [load, hload, hrun, hlong]

theorem load_refused (h : s.loadable = false ∨ s.halt = true) : load bytes s = .refused .loadAfterFirstCycle := by
  rcases h with h | h <;> simp [load, h]

end

/-- Settles O15: on each side of LOAD_MAX, the image stored from 0x200, or the result alone. -/
theorem loadPlacesImageOrRejects : Obligations.LoadPlacesImageOrRejects := by
  intro s bytes he hload hrun hm
  have hstep : step s = load bytes (takeEvent s) := step_eq_perform he
  refine ⟨fun hle => ?_, fun hgt => ?_⟩
  · rw [load_of_le (s := takeEvent s) hload hrun hle] at hstep
    refine ⟨_, hstep, rfl, fun j hj => ?_, ?_⟩
    · exact Memory.read_writeRange_inside hm bytes (by omega) j hj
    · have hplaced := (store_frame (takeEvent s) 0x200 bytes).mono (may' := fun e =>
        (∃ j, j < bytes.length ∧ e = .mem (0x200 + j)) ∨ e = .result) fun _ => .inl
      exact (event_frame (hplaced.trans ((setResult_frame _ _).mono fun _ => .inr))).mono fun _ => or_assoc.mp
  · rw [load_of_gt (s := takeEvent s) hload hrun hgt] at hstep
    exact ⟨_, hstep, rfl, event_frame (setResult_frame _ _)⟩

/-- Settles O16: the guard of Load, and the end of every cycle. -/
theorem loadIsRefusedOnceCyclesRan : Obligations.LoadIsRefusedOnceCyclesRan := by
  refine ⟨fun s bytes he hlate => ?_, fun s t keys rnd he hstep => ?_⟩
  · exact (step_eq_perform he).trans (load_refused (s := takeEvent s) hlate)
  · rw [step_of_cycle he] at hstep
    obtain ⟨-, hload, -⟩ := cycle_end hstep
    exact hload

/-! ### FbRead and the status read (R282, R38) -/

theorem fbRead_frame (s : State) : Frame (fun e => e = .draw ∨ e = .result) s (fbRead s) := fun e he => by
  cases e with
  | draw => exact absurd (.inl rfl) he
  | result => exact absurd (.inr rfl) he
  | _ => rfl

theorem statusRead_frame (s : State) : Frame (fun e => e = .result) s (statusRead s) := setResult_frame s _

/-- `SOUND` as a decision about `ST` (R42). -/
theorem sound_eq_decide (s : State) : sound s = decide (s.st ≠ 0) := by
  rw [Bool.eq_iff_iff, sound_iff_st_ne_zero, decide_eq_true_iff]

/-- Settles O17: the two reads on the state with the event taken. -/
theorem hostReadsAnswerAndChangeNothingElse : Obligations.HostReadsAnswerAndChangeNothingElse := by
  refine ⟨fun s he => ?_, fun s he => ?_⟩
  · refine ⟨_, step_eq_perform he, rfl, rfl, ?_⟩
    exact (event_frame (fbRead_frame (takeEvent s))).mono (by tauto)
  · refine ⟨_, step_eq_perform he, ?_, ?_⟩
    · exact (statusRead_result (takeEvent s)).trans (by rw [sound_eq_decide]; rfl)
    · exact (event_frame (statusRead_frame (takeEvent s))).mono (by tauto)

/-! ### While halted (R241, R249) -/

/-- Settles O10: a halted unit refuses a Load and has no cycle, and a tick or a read leaves the halt. -/
theorem onlyResetLeavesHalt : Obligations.OnlyResetLeavesHalt := by
  intro s t hhalt hstep hne
  rcases step_cases hstep with ⟨he, -⟩ | ⟨bytes, -, hload⟩ | ⟨keys, rnd, -, hcycle⟩ | ⟨-, rfl⟩ | ⟨-, rfl⟩ | ⟨-, rfl⟩
  · exact absurd he hne
  · obtain ⟨-, hrun, -⟩ := load_cases hload
    exact Bool.noConfusion (hhalt.symm.trans hrun)
  · obtain ⟨hrun, -⟩ := cycle_cases hcycle
    exact Bool.noConfusion (hhalt.symm.trans hrun)
  · exact ⟨hhalt, rfl, (event_frame (timerTick_frame _)).mono (by tauto)⟩
  · exact ⟨hhalt, rfl, (event_frame (fbRead_frame _)).mono (by tauto)⟩
  · exact ⟨hhalt, rfl, (event_frame (statusRead_frame _)).mono (by tauto)⟩

end Sys2Proof.Machine
end

section
/-! SUPPORT. The invariant of reachable states (10_state.md R49): it holds after reset, and every event keeps it. A cycle keeps it
because each shape in which an instruction completes keeps each of its clauses. -/

namespace Sys2Proof.Machine

/-- Settles O53: every clause is about literal values. -/
theorem resetMeetsInvariant : Obligations.ResetMeetsInvariant where
  memory := rfl
  index := by decide
  stackPointer := by decide
  returns := fun _ hk => absurd hk (Nat.not_lt_zero _)
  counter := by decide
  running := fun _ => rfl
  halted := fun h => Bool.noConfusion h

/-! ### States that agree where the invariant looks -/

/-- The invariant depends on seven elements only. -/
theorem StateInv.congr {s t : State} (h : StateInv s) (hmem : t.mem = s.mem) (hi : t.i = s.i) (hsp : t.sp = s.sp)
    (hstack : t.stack = s.stack) (hpc : t.pc = s.pc) (hhalt : t.halt = s.halt) (herr : t.err = s.err) : StateInv t where
  memory := hmem ▸ h.memory
  index := hi ▸ h.index
  stackPointer := hsp ▸ h.stackPointer
  returns k hk := by
    rw [stackAt_congr hstack]
    exact h.returns k (hsp ▸ hk)
  counter := hpc ▸ h.counter
  running hrun := herr ▸ h.running (hhalt ▸ hrun)
  halted hh := by
    rw [herr, hpc]
    exact h.halted (hhalt ▸ hh)

theorem StateInv.takeEvent {s : State} (h : StateInv s) : StateInv (takeEvent s) := h.congr rfl rfl rfl rfl rfl rfl rfl

theorem StateInv.beginCycle {s : State} (h : StateInv s) (keys : Keys) (rnd : Byte) : StateInv (beginCycle keys rnd s) :=
  h.congr rfl rfl rfl rfl rfl rfl rfl

theorem StateInv.closeCycle {s : State} (h : StateInv s) : StateInv (closeCycle s) :=
  h.congr (closeCycle_mem s) (closeCycle_i s) (closeCycle_sp s) (closeCycle_stack s) (closeCycle_pc s) (closeCycle_halt s)
    (closeCycle_err s)

/-- A fatal error makes `HALT` and `ERR` agree (R236). -/
theorem StateInv.raiseFatal {s : State} (h : StateInv s) {kind : ErrKind} (hkind : kind.isFatal = true) (sub : SubCause)
    (info : Word) : StateInv (raiseFatal kind sub info s) where
  memory := h.memory
  index := h.index
  stackPointer := h.stackPointer
  returns := h.returns
  counter := h.counter
  running := fun hrun => Bool.noConfusion hrun
  halted := fun _ => ⟨hkind, rfl⟩

/-! ### Each shape keeps each clause -/

section
variable {s t : State} {i : Instr}

/-- A fetched opcode's successor is within the bound. -/
theorem pc_add_two_le_bound {pc : Word} (h : pc.toNat + 1 ≤ 0xFFF) : (pc + 2).toNat ≤ 0x10FE :=
  (pc_add_two_toNat_le (by omega)).trans (by decide)

theorem Completes.mem_wf (h : Completes s i t) (hs : StateInv s) : t.mem.wf = true := by
  cases h with
  | store bytes _ inside => exact Memory.wf_writeRange hs.memory bytes (.inr inside)
  | _ => exact hs.memory

theorem Completes.i_le (h : Completes s i t) (hs : StateInv s) : t.i.toNat ≤ 0xFFF := by
  cases h with
  | index w _ bound => exact bound
  | _ => exact hs.index

theorem Completes.sp_le (h : Completes s i t) (hs : StateInv s) : t.sp ≤ 16 := by
  cases h with
  | call nnn room => exact room
  | ret => exact (Nat.sub_le s.sp 1).trans hs.stackPointer
  | _ => exact hs.stackPointer

/-- The return addresses: a CALL adds its own successor, a RET only uncovers. -/
theorem Completes.returns_le (h : Completes s i t) (hs : StateInv s) (hpc : s.pc.toNat + 1 ≤ 0xFFF) :
    ∀ k, k < t.sp → (t.stackAt k).toNat ≤ 0x1000 := by
  cases h with
  | call nnn room =>
    intro k hk
    show ((s.push (s.pc + 2)).stackAt k).toNat ≤ 0x1000
    rw [stackAt_push]
    split
    · exact pc_add_two_toNat_le (by omega)
    · next hother =>
      have hk : k < s.sp + 1 := hk
      exact hs.returns k (by omega)
  | ret => exact fun k hk => hs.returns k (hk.trans_le (Nat.sub_le s.sp 1))
  | _ => exact hs.returns

/-- `PC`: a transfer's target and a return address are bounded, and a fetched opcode lies at 0xFFE or below. -/
theorem Completes.pc_le (h : Completes s i t) (hs : StateInv s) (hpc : s.pc.toNat + 1 ≤ 0xFFF) : t.pc.toNat ≤ 0x10FE := by
  cases h with
  | jump w _ bound => exact bound
  | call nnn =>
    show (targetOf nnn).toNat ≤ 0x10FE
    rw [targetOf_toNat]
    omega
  | ret hpos => exact (hs.returns (s.sp - 1) (Nat.sub_lt hpos Nat.one_pos)).trans (by decide)
  | skip c => rw [skipIf_pc_eq]; split <;> bv_omega
  | keyHold => exact hs.counter
  | _ => exact pc_add_two_le_bound hpc

/-- An instruction that completes keeps the invariant. -/
theorem Completes.keeps_stateInv (h : Completes s i t) (hs : StateInv s) (hrun : s.halt = false)
    (hpc : s.pc.toNat + 1 ≤ 0xFFF) : StateInv t := by
  obtain ⟨hhalt, herr, -⟩ := h.unchanged
  exact
    { memory := h.mem_wf hs
      index := h.i_le hs
      stackPointer := h.sp_le hs
      returns := h.returns_le hs hpc
      counter := h.pc_le hs hpc
      running := fun _ => herr.trans (hs.running hrun)
      halted := fun hh => Bool.noConfusion ((hhalt.trans hrun).symm.trans hh) }

/-- So does every instruction that was fetched. -/
theorem exec_keeps_stateInv (hexec : exec i s = .next t) (hs : StateInv s) (hrun : s.halt = false)
    (hpc : s.pc.toNat + 1 ≤ 0xFFF) : StateInv t := by
  rcases exec_cases hexec with ⟨kind, sub, info, hkind, rfl⟩ | ht
  · exact hs.raiseFatal hkind sub info
  · exact ht.keeps_stateInv hs hrun hpc

/-- The diagnostic moves `PC` on by 2 and leaves the rest. -/
theorem execUnknown_keeps_stateInv (hs : StateInv s) (hrun : s.halt = false) (hpc : s.pc.toNat + 1 ≤ 0xFFF) (op : Word) :
    StateInv (execUnknown op s) where
  memory := hs.memory
  index := hs.index
  stackPointer := hs.stackPointer
  returns := hs.returns
  counter := pc_add_two_le_bound hpc
  running := hs.running
  halted := fun hh => Bool.noConfusion (hrun.symm.trans hh)

/-! ### Each event keeps the invariant -/

theorem cycle_keeps_stateInv {keys : Keys} {rnd : Byte} (h : cycle keys rnd s = .next t) (hs : StateInv s) : StateInv t := by
  have hbegun := hs.beginCycle keys rnd
  obtain ⟨hrun, ⟨-, rfl⟩ | ⟨hpc, _, -, ⟨i, u, -, hexec, rfl⟩ | ⟨w, -, rfl⟩⟩⟩ := cycle_cases h
  · exact hbegun.raiseFatal rfl _ _
  · exact (exec_keeps_stateInv hexec hbegun hrun hpc).closeCycle
  · exact (execUnknown_keeps_stateInv hbegun hrun hpc w).closeCycle

theorem load_keeps_stateInv {bytes : List Byte} (h : load bytes s = .next t) (hs : StateInv s) : StateInv t := by
  obtain ⟨-, -, ⟨hle, rfl⟩ | ⟨-, rfl⟩⟩ := load_cases h
  · exact { hs with memory := Memory.wf_writeRange hs.memory bytes (.inr (by omega)) }
  · exact hs.congr rfl rfl rfl rfl rfl rfl rfl

end

/-- Settles O54: the event taken changes nothing the invariant looks at, and each of the six events keeps it. -/
theorem everyStepKeepsInvariant : Obligations.EveryStepKeepsInvariant := by
  intro s t hs hstep
  have htaken := hs.takeEvent
  rcases step_cases hstep with ⟨-, rfl⟩ | ⟨bytes, -, hload⟩ | ⟨keys, rnd, -, hcycle⟩ | ⟨-, rfl⟩ | ⟨-, rfl⟩ | ⟨-, rfl⟩
  · exact StateInv.congr resetMeetsInvariant rfl rfl rfl rfl rfl rfl rfl
  · exact load_keeps_stateInv hload htaken
  · exact cycle_keeps_stateInv hcycle htaken
  all_goals exact htaken.congr rfl rfl rfl rfl rfl rfl rfl

end Sys2Proof.Machine
end
